-- ==== Sys2Proof/Word.lean ====
section
/-! DEFINITION. The word of the block (00_scope.md R10) and the shape of its three register files: four words, word 0
the least significant (20_memory.md R71). Everything that reads or writes a word of a file is in Machine/Words.lean. -/

namespace Sys2Proof

/-- A word is a 64-bit unsigned value (R10). -/
abbrev Word := BitVec 64

/-- Four words `[w0, w1, w2, w3]`, `w0` the least significant (R10, R71): the shape of K, CTR and BLK (R31). -/
structure Quad where
  w0 : Word
  w1 : Word
  w2 : Word
  w3 : Word
deriving DecidableEq, Repr

/-- Four zero words. -/
def Quad.zero : Quad := ⟨0, 0, 0, 0⟩

end Sys2Proof
end

