-- ==== Sys2Proof/Config.lean ====
section
/-! DEFINITION. The build-time parameters of a block (00_scope.md R6, R7) and the refusal of every other configuration
by name (R8, R302). The types admit exactly the legal values, so no state exists for an invalid configuration. -/

namespace Sys2Proof

/-- The output sample width `W` (R6): 8, 16, 32 or 64 bits. -/
inductive Width where
  | w8 | w16 | w32 | w64
deriving DecidableEq, Repr

/-- KeySize, the number of implemented key words (R6): 0 to 4. -/
inductive KeySize where
  | k0 | k1 | k2 | k3 | k4
deriving DecidableEq, Repr

/-- CounterSize, the number of implemented counter words (R6): 1 to 4. -/
inductive CounterSize where
  | c1 | c2 | c3 | c4
deriving DecidableEq, Repr

/-- `W` as a number of bits. -/
def Width.bits : Width → Nat
  | .w8 => 8
  | .w16 => 16
  | .w32 => 32
  | .w64 => 64

/-- `LOG2S = log2(256 / W)` (R7). -/
def Width.log2S : Width → Nat
  | .w8 => 5
  | .w16 => 4
  | .w32 => 3
  | .w64 => 2

/-- `S`, the number of samples in one block (R7): 32, 16, 8 or 4. -/
def Width.S (w : Width) : Nat := 2 ^ w.log2S

/-- `KS` as a number. -/
def KeySize.toNat : KeySize → Nat
  | .k0 => 0
  | .k1 => 1
  | .k2 => 2
  | .k3 => 3
  | .k4 => 4

/-- `CS` as a number. -/
def CounterSize.toNat : CounterSize → Nat
  | .c1 => 1
  | .c2 => 2
  | .c3 => 3
  | .c4 => 4

/-- The four configuration parameters, fixed when the block is built (R6, R343). `R` has 32 bits: 0 to
`R_MAX = 2^32 - 1` (R6). -/
structure Config where
  W  : Width
  R  : BitVec 32
  KS : KeySize
  CS : CounterSize
deriving DecidableEq, Repr

namespace Config

/-- `S`, samples in one block (R7). -/
def S (c : Config) : Nat := c.W.S

/-- `LOG2S` (R7). -/
def log2S (c : Config) : Nat := c.W.log2S

/-- The number of rounds. -/
def rounds (c : Config) : Nat := c.R.toNat

/-- The number of implemented key words. -/
def ks (c : Config) : Nat := c.KS.toNat

/-- The number of implemented counter words. -/
def cs (c : Config) : Nat := c.CS.toNat

/-- The source's ConfigurationError (R8, R302), by the parameter that is out of the table of R6. DESIGN CHOICE, safe (log
entry 20): the spec gives the one error, and the four names are the model's. -/
inductive Error where
  /-- W is none of 8, 16, 32, 64. -/
  | badW
  /-- R is above `R_MAX = 2^32 - 1`. -/
  | badRounds
  /-- KeySize is above 4. -/
  | badKeySize
  /-- CounterSize is not 1 to 4. -/
  | badCounterSize
deriving DecidableEq, Repr

/-- A width of the table of R6, or none. -/
def widthOf : Nat → Option Width
  | 8 => some .w8
  | 16 => some .w16
  | 32 => some .w32
  | 64 => some .w64
  | _ => none

/-- A KeySize of the table of R6, or none. -/
def keySizeOf : Nat → Option KeySize
  | 0 => some .k0
  | 1 => some .k1
  | 2 => some .k2
  | 3 => some .k3
  | 4 => some .k4
  | _ => none

/-- A CounterSize of the table of R6, or none. -/
def counterSizeOf : Nat → Option CounterSize
  | 1 => some .c1
  | 2 => some .c2
  | 3 => some .c3
  | 4 => some .c4
  | _ => none

/-- Building a block: the four numbers checked against the table of R6. A configuration outside it is refused by name
and has no run-time state (R8, R302). DESIGN CHOICE, safe (log entry 20): with several parameters out of the table the name
is that of the first of W, R, KeySize, CounterSize; the spec gives no order. -/
def build (w r ks cs : Nat) : Except Error Config :=
  match widthOf w with
  | none => .error .badW
  | some w =>
    if r < 2 ^ 32 then
      match keySizeOf ks with
      | none => .error .badKeySize
      | some ks =>
        match counterSizeOf cs with
        | none => .error .badCounterSize
        | some cs => .ok ⟨w, BitVec.ofNat 32 r, ks, cs⟩
    else .error .badRounds

/-- The configuration of the block that `State.reset` is the reset state of: W = 64, R = 20, KS = 4, CS = 4, the one
most vectors of 95_test_vectors.md use. DESIGN CHOICE, unsafe (log entry 1): the spec leaves the configuration an
argument; no statement rests on this one unless it says so. -/
def standard : Config := ⟨.w64, 20, .k4, .c4⟩

end Config

end Sys2Proof
end

