-- ==== Sys2Proof/Syntax.lean ====
section
/-! DEFINITION. Syntax: the thirteen commands of spec/opcode_table.json (30_encoding.md R98), the command port's words
(R94, R95), and the assembler's source lines with the pseudo-commands (R105, R106). -/

namespace Sys2Proof

/-- What the host puts on the command port: the 32-bit command word and the 64-bit operand word (R94, R95). -/
structure Command where
  word : BitVec 32
  data : Word
deriving DecidableEq, Repr

/-- The commands (R98), each with its word index IDX (0 to 3, R96) and its operand word where it reads one (R95). An
index and an operand of these types are in range by their types. -/
inductive Instr where
  /-- NOP (R257). -/
  | nop
  /-- NEXT (R250). -/
  | next
  /-- DISCARD n (R251). -/
  | discard (n : Word)
  /-- SEEDI v (R135). -/
  | seedi (v : Word)
  /-- SEEDS (R136). -/
  | seeds
  /-- KEYWR k(idx), v (R133). -/
  | keywr (idx : Fin 4) (v : Word)
  /-- KEYRD k(idx) (R134). -/
  | keyrd (idx : Fin 4)
  /-- CTRWR c(idx), v (R164). -/
  | ctrwr (idx : Fin 4) (v : Word)
  /-- CTRRD c(idx) (R165). -/
  | ctrrd (idx : Fin 4)
  /-- CURWR p (R254). -/
  | curwr (p : Word)
  /-- CURRD (R255). -/
  | currd
  /-- BLKRD b(idx) (R200). -/
  | blkrd (idx : Fin 4)
  /-- INFORD idx (R256). -/
  | inford (idx : Fin 4)
deriving DecidableEq, Repr

/-- One source line of the assembler (R105), with the pseudo-commands (R106). Numbers and indices are as written, so
that a line can be out of range; WellFormed.lean says which lines an assembler takes. -/
inductive AsmLine where
  | nop
  | next
  | discard (n : Nat)
  | seedi (v : Nat)
  | seeds
  | keywr (i v : Nat)
  | keyrd (i : Nat)
  | ctrwr (i v : Nat)
  | ctrrd (i : Nat)
  | curwr (v : Nat)
  | currd
  | blkrd (i : Nat)
  | inford (i : Nat)
  /-- `.word w, d`: the raw command word w with operand d. -/
  | word (w d : Nat)
  /-- `SETKEY v0, …, v(KS−1)`. -/
  | setkey (vs : List Nat)
  /-- `SETCTR w0, …, w(CS−1)`. -/
  | setctr (ws : List Nat)
  | serialize
  /-- `DESERIALIZE v0…v(KS−1), w0…w(CS−1), p`, the words in one list. -/
  | deserialize (args : List Nat)
  | rdmin
  | rdmax
  | rdconfig
  | rdparity
deriving DecidableEq, Repr

end Sys2Proof
end

