-- ==== Sys2Proof/WellFormed.lean ====
section
/-! DEFINITION. What an assembler refuses (30_encoding.md R105): an index outside 0..3, a number that does not fit. An
`Instr` needs no check of its own: its index is a `Fin 4` and its operand a 64-bit word, so every `Instr` is well formed. -/

namespace Sys2Proof

/-- A word index is written with i in 0..3 (R105). -/
def indexOk (i : Nat) : Bool := decide (i < 4)

/-- A number fits in 64 bits (R105). -/
def numberOk (n : Nat) : Bool := decide (n < 2 ^ 64)

/-- The raw command word of `.word` fits in the 32 bits of `cmd_word` (R94, R105). DEDUCED, safe (log entry 13): R105
bounds numbers by 64 bits only. -/
def rawWordOk (n : Nat) : Bool := decide (n < 2 ^ 32)

/-- The lines an assembler takes for a block of configuration `c` (R105, R106). The pseudo-commands take exactly as
many words as the configuration implements; an index that the configuration leaves unimplemented is NOT refused. -/
def AsmLine.wf (c : Config) : AsmLine → Bool
  | .nop => true
  | .next => true
  | .discard n => numberOk n
  | .seedi v => numberOk v
  | .seeds => true
  | .keywr i v => indexOk i && numberOk v
  | .keyrd i => indexOk i
  | .ctrwr i v => indexOk i && numberOk v
  | .ctrrd i => indexOk i
  | .curwr v => numberOk v
  | .currd => true
  | .blkrd i => indexOk i
  | .inford i => indexOk i
  | .word w d => rawWordOk w && numberOk d
  | .setkey vs => vs.length == c.ks && vs.all numberOk
  | .setctr ws => ws.length == c.cs && ws.all numberOk
  | .serialize => true
  | .deserialize args => args.length == c.ks + c.cs + 1 && args.all numberOk
  | .rdmin => true
  | .rdmax => true
  | .rdconfig => true
  | .rdparity => true

end Sys2Proof
end

