-- ==== Sys2Proof/Decode.lean ====
section
/-! DEFINITION. The decoder, total on every 32-bit command word (30_encoding.md R101), the encoder written from the
table of R98, and the table itself. -/

namespace Sys2Proof

/-- `OPC = cmd_word[7:0]` (R94). -/
def opcField (w : BitVec 32) : BitVec 8 := w.extractLsb' 0 8

/-- `IDX = cmd_word[9:8]`, an unsigned word index 0..3 (R94, R96). -/
def idxField (w : BitVec 32) : Fin 4 := (w.extractLsb' 8 2).toFin

/-- `RSV = cmd_word[31:10]` (R94). -/
def rsvField (w : BitVec 32) : BitVec 22 := w.extractLsb' 10 22

/-- The names of the commands, one for each row of the table of R98. -/
inductive Mnemonic where
  | NOP | NEXT | DISCARD | SEEDI | SEEDS | KEYWR | KEYRD | CTRWR | CTRRD | CURWR | CURRD | BLKRD | INFORD
deriving DecidableEq, Repr

/-- The row an instruction belongs to. -/
def Instr.mnemonic : Instr → Mnemonic
  | .nop => .NOP
  | .next => .NEXT
  | .discard _ => .DISCARD
  | .seedi _ => .SEEDI
  | .seeds => .SEEDS
  | .keywr _ _ => .KEYWR
  | .keyrd _ => .KEYRD
  | .ctrwr _ _ => .CTRWR
  | .ctrrd _ => .CTRRD
  | .curwr _ => .CURWR
  | .currd => .CURRD
  | .blkrd _ => .BLKRD
  | .inford _ => .INFORD

/-- A command that does not use IDX: IDX ≠ 0 is ILLEGAL_COMMAND (R100, R101). -/
def withoutIndex (idx : Fin 4) (m : Mnemonic) : Option (Mnemonic × Fin 4) := if idx = 0 then some (m, 0) else none

/-- The decoder of R101, from every 32-bit word to an operation and its index (0 where it uses none); `none` is
ILLEGAL_COMMAND. It does not depend on the configuration (R102). -/
def decodeWord (w : BitVec 32) : Option (Mnemonic × Fin 4) :=
  if rsvField w = 0 then
    match (opcField w).toNat with
    | 0x00 => withoutIndex (idxField w) .NOP
    | 0x01 => withoutIndex (idxField w) .NEXT
    | 0x02 => withoutIndex (idxField w) .DISCARD
    | 0x03 => withoutIndex (idxField w) .SEEDI
    | 0x04 => withoutIndex (idxField w) .SEEDS
    | 0x05 => some (.KEYWR, idxField w)
    | 0x06 => some (.KEYRD, idxField w)
    | 0x07 => some (.CTRWR, idxField w)
    | 0x08 => some (.CTRRD, idxField w)
    | 0x09 => withoutIndex (idxField w) .CURWR
    | 0x0A => withoutIndex (idxField w) .CURRD
    | 0x0B => some (.BLKRD, idxField w)
    | 0x0C => some (.INFORD, idxField w)
    | _ => none
  else none

/-- The instruction of an operation, its index and the operand word: the operand is taken unchanged by the commands that
read it and ignored by every other (R95, R96). -/
def Instr.ofFields (m : Mnemonic) (idx : Fin 4) (d : Word) : Instr :=
  match m with
  | .NOP => .nop
  | .NEXT => .next
  | .DISCARD => .discard d
  | .SEEDI => .seedi d
  | .SEEDS => .seeds
  | .KEYWR => .keywr idx d
  | .KEYRD => .keyrd idx
  | .CTRWR => .ctrwr idx d
  | .CTRRD => .ctrrd idx
  | .CURWR => .curwr d
  | .CURRD => .currd
  | .BLKRD => .blkrd idx
  | .INFORD => .inford idx

/-- The instruction of a command, `none` where its word is ILLEGAL_COMMAND (R101). -/
def decode (c : Command) : Option Instr := (decodeWord c.word).map fun f => Instr.ofFields f.1 f.2 c.data

/-- A command word of the table of R105: the match value with the index in bits 9..8. -/
def commandWord (opc : BitVec 32) (idx : Fin 4) : BitVec 32 := opc ||| (BitVec.ofNat 32 idx.val <<< 8)

/-- The command an assembler emits for an instruction (R105): operand words shown there as 0 are 0. -/
def encode : Instr → Command
  | .nop => ⟨0x00000000, 0⟩
  | .next => ⟨0x00000001, 0⟩
  | .discard n => ⟨0x00000002, n⟩
  | .seedi v => ⟨0x00000003, v⟩
  | .seeds => ⟨0x00000004, 0⟩
  | .keywr i v => ⟨commandWord 0x00000005 i, v⟩
  | .keyrd i => ⟨commandWord 0x00000006 i, 0⟩
  | .ctrwr i v => ⟨commandWord 0x00000007 i, v⟩
  | .ctrrd i => ⟨commandWord 0x00000008 i, 0⟩
  | .curwr p => ⟨0x00000009, p⟩
  | .currd => ⟨0x0000000A, 0⟩
  | .blkrd i => ⟨commandWord 0x0000000B i, 0⟩
  | .inford i => ⟨commandWord 0x0000000C i, 0⟩

/-- The commands that read the operand word (R95). -/
def readsOperand : Instr → Bool
  | .nop => false
  | .next => false
  | .discard _ => true
  | .seedi _ => true
  | .seeds => false
  | .keywr _ _ => true
  | .keyrd _ => false
  | .ctrwr _ _ => true
  | .ctrrd _ => false
  | .curwr _ => true
  | .currd => false
  | .blkrd _ => false
  | .inford _ => false

/-- A row of the opcode map: a command word selects the command iff its bits match `pattern` under `mask` (R98). -/
structure OpcodeRow where
  name    : Mnemonic
  pattern : BitVec 32
  mask    : BitVec 32
deriving DecidableEq, Repr

/-- The opcode map of R98, in its order. -/
def opcodeMap : List OpcodeRow :=
  [⟨.NOP, 0x00000000, 0xFFFFFFFF⟩, ⟨.NEXT, 0x00000001, 0xFFFFFFFF⟩, ⟨.DISCARD, 0x00000002, 0xFFFFFFFF⟩,
    ⟨.SEEDI, 0x00000003, 0xFFFFFFFF⟩, ⟨.SEEDS, 0x00000004, 0xFFFFFFFF⟩, ⟨.KEYWR, 0x00000005, 0xFFFFFCFF⟩,
    ⟨.KEYRD, 0x00000006, 0xFFFFFCFF⟩, ⟨.CTRWR, 0x00000007, 0xFFFFFCFF⟩, ⟨.CTRRD, 0x00000008, 0xFFFFFCFF⟩,
    ⟨.CURWR, 0x00000009, 0xFFFFFFFF⟩, ⟨.CURRD, 0x0000000A, 0xFFFFFFFF⟩, ⟨.BLKRD, 0x0000000B, 0xFFFFFCFF⟩,
    ⟨.INFORD, 0x0000000C, 0xFFFFFCFF⟩]

/-- A word matches a row (R98). -/
def OpcodeRow.selects (r : OpcodeRow) (w : BitVec 32) : Bool := w &&& r.mask == r.pattern

/-- The command whose bits are `w`, bit 0 the least significant bit of the command word and the operand word above it
(bits 95..32). Bits of `w` at and above `nbits` are 0. -/
def commandOfBits (nbits w : Nat) : Command :=
  let v := w % 2 ^ nbits
  ⟨BitVec.ofNat 32 v, BitVec.ofNat 64 (v / 2 ^ 32)⟩

/-- The instruction the decoder reads from a word numbered as spec/opcode_table.json numbers it. -/
def decodeTableWord (nbits w : Nat) : Option Instr := decode (commandOfBits nbits w)

end Sys2Proof
end

