-- ==== Sys2Proof/Machine/Words.lean ====
section
/-! DEFINITION. Reading and writing words of a four-word file, its value as an integer, and its 256-bit view
(00_scope.md R10, R12; 20_memory.md R71). -/

namespace Sys2Proof

namespace Quad

/-- Word `i` of the file. -/
def get (q : Quad) (i : Fin 4) : Word :=
  match i with
  | 0 => q.w0
  | 1 => q.w1
  | 2 => q.w2
  | 3 => q.w3

/-- The file with word `i` replaced. -/
def set (q : Quad) (i : Fin 4) (v : Word) : Quad :=
  match i with
  | 0 => { q with w0 := v }
  | 1 => { q with w1 := v }
  | 2 => { q with w2 := v }
  | 3 => { q with w3 := v }

/-- The file as it reads when only its first `n` words are implemented: the others are hard-wired to zero (10_state.md
R32, R34). -/
def hardwire (n : Nat) (q : Quad) : Quad :=
  ⟨if 0 < n then q.w0 else 0, if 1 < n then q.w1 else 0, if 2 < n then q.w2 else 0, if 3 < n then q.w3 else 0⟩

/-- The first four words of a list, missing ones zero ("missing slots treated as zero", 10_state.md R32). -/
def ofList (ws : List Word) : Quad := ⟨ws.getD 0 0, ws.getD 1 0, ws.getD 2 0, ws.getD 3 0⟩

/-- The words, least significant first. -/
def toList (q : Quad) : List Word := [q.w0, q.w1, q.w2, q.w3]

/-- `B256 = w3 ++ w2 ++ w1 ++ w0` (R71). -/
def b256 (q : Quad) : BitVec 256 := (q.w3 ++ q.w2 ++ q.w1 ++ q.w0 : BitVec (64 + 64 + 64 + 64))

end Quad

/-- The integer of a little-endian list of words: Σ w_i · 2^(64·i) (R12). -/
def valOfWords : List Word → Nat
  | [] => 0
  | w :: ws => w.toNat + 2 ^ 64 * valOfWords ws

/-- `val(CTR)` over the first `n` words (R12, R34). -/
def Quad.val (n : Nat) (q : Quad) : Nat := valOfWords (q.toList.take n)

end Sys2Proof
end

