-- ==== Sys2Proof/Machine/Mixing.lean ====
section
/-! DEFINITION. The parity word (40_key_schedule.md R130) and the mixing network ENCRYPT (42_mixing_network.md R190 to
R197), as functions of words alone. The rotation table, the pairings, the subkey formula and the initial injection are
what the rules state; the spec marks them as its own general knowledge (93_implementation_defined.md I1 to I4, log
entry 12). -/

namespace Sys2Proof.Machine

/-- `C240`, the parity constant (00_scope.md R7). -/
def C240 : Word := 0x1BD11BDAA9FC1A22

/-- `PARITY(k)` (R130). -/
def parity (k : Quad) : Word := C240 ^^^ k.w0 ^^^ k.w1 ^^^ k.w2 ^^^ k.w3

/-- `rotl64(x, r) = ((x << r) | (x >> (64 − r)))[63:0]` for 0 ≤ r ≤ 63 (R191). -/
def rotl64 (x : Word) (r : Nat) : Word := x <<< r ||| x >>> (64 - r)

/-- `MIX(a, b, rot)`: `a ← a + b; b ← rotl64(b, rot); b ← b ^ a` with the new `a` (R190). -/
def mix (a b : Word) (rot : Nat) : Word × Word :=
  let a' := a + b
  (a', rotl64 b rot ^^^ a')

/-- `ROT[r mod 8]`, the rotation schedule (R192). -/
def rotation (r : Nat) : Nat × Nat :=
  match r % 8 with
  | 0 => (14, 16)
  | 1 => (52, 57)
  | 2 => (23, 40)
  | 3 => (5, 37)
  | 4 => (25, 33)
  | 5 => (46, 12)
  | 6 => (58, 22)
  | _ => (32, 32)

/-- `ROUND(X, r)`: two MIX calls, on (0,1) and (2,3) in an even round, on (0,3) and (2,1) in an odd one (R193). -/
def round (x : Quad) (r : Nat) : Quad :=
  let rot := rotation r
  if r % 2 = 0 then
    let p := mix x.w0 x.w1 rot.1
    let q := mix x.w2 x.w3 rot.2
    ⟨p.1, p.2, q.1, q.2⟩
  else
    let p := mix x.w0 x.w3 rot.1
    let q := mix x.w2 x.w1 rot.2
    ⟨p.1, q.2, q.1, p.2⟩

/-- Word `j mod 5` of the extended key `ks[0..3] = K[0..3]`, `ks[4] = KP` (R194). -/
def extendedKey (k : Quad) (kp : Word) (j : Nat) : Word :=
  match j % 5 with
  | 0 => k.w0
  | 1 => k.w1
  | 2 => k.w2
  | 3 => k.w3
  | _ => kp

/-- `INJECT(X, s)`: `X[i] ← X[i] + ks[(s + i) mod 5]`, then `X[3] ← X[3] + s` (R195). -/
def inject (k : Quad) (kp : Word) (x : Quad) (s : Nat) : Quad :=
  ⟨x.w0 + extendedKey k kp s, x.w1 + extendedKey k kp (s + 1), x.w2 + extendedKey k kp (s + 2),
    x.w3 + extendedKey k kp (s + 3) + BitVec.ofNat 64 s⟩

/-- The initial injection of subkey 0: `X[i] = CTR[i] + ks[i]` (R196). -/
def initialInjection (k : Quad) (ctr : Quad) : Quad :=
  ⟨ctr.w0 + k.w0, ctr.w1 + k.w1, ctr.w2 + k.w2, ctr.w3 + k.w3⟩

/-- One pass of the loop of R197: round `r`, then injection `(r + 1) div 4` when `r mod 4 = 3`. -/
def roundAndInject (k : Quad) (kp : Word) (x : Quad) (r : Nat) : Quad :=
  let y := round x r
  if r % 4 = 3 then inject k kp y ((r + 1) / 4) else y

/-- Rounds 0 to n − 1 of the loop of R197. -/
def runRounds (k : Quad) (kp : Word) (x : Quad) : Nat → Quad
  | 0 => x
  | n + 1 => roundAndInject k kp (runRounds k kp x n) n

/-- `ENCRYPT(CTR, K, KP, R)` (R197). -/
def encrypt (ctr k : Quad) (kp : Word) (rounds : Nat) : Quad :=
  runRounds k kp (initialInjection k ctr) rounds

end Sys2Proof.Machine
end

