-- ==== Sys2Proof/Machine/State.lean ====
section
/-! DEFINITION. The state of one block (10_state.md R31 to R43), the state of its ports (30_encoding.md R90 to R93,
R103, R108), what the two outside agents HOST and SEED hold (R30), and the reset state (R43). Plain data throughout. -/

namespace Sys2Proof.Machine

/-- The response status (R103); its 3-bit code is in Machine/Flags.lean. -/
inductive Status where
  /-- The command completed. -/
  | ok
  /-- SEEDS met the end of the seed sequence before KS words. -/
  | seedExhausted
  /-- Reserved opcode, RSV ≠ 0, or IDX ≠ 0 where unused. -/
  | illegalCommand
  /-- KEYWR with IDX ≥ KS, or CTRWR with IDX ≥ CS. -/
  | illegalIndex
  /-- CURWR with cmd_data > S. -/
  | illegalOperand
deriving DecidableEq, Repr

/-- A response: `rsp_status` and `rsp_data` (R103). -/
structure Response where
  status : Status
  data   : Word
deriving DecidableEq, Repr

/-- One answer of the seed source to one request (R12, R108). -/
inductive SeedAnswer where
  /-- The sequence is exhausted and no word comes. -/
  | eos
  /-- One seed word. -/
  | word (v : Word)
deriving DecidableEq, Repr

/-- What the command, response and seed ports are doing. -/
inductive Port where
  /-- Reset has been taken; BLK is being made ready and `cmd_ready` is still 0 (70_reset_and_hazards.md R340). -/
  | starting
  /-- `cmd_ready = 1`: no command in progress, no response pending (R93). -/
  | idle
  /-- The command word and operand latched at acceptance (R91); `cmd_ready = 0`. -/
  | busy (c : Command)
  /-- A SEEDS in progress (R108, R136): `req` is `seed_req`; `buf` holds the words the source has given, in order. -/
  | seeding (req : Bool) (buf : List Word)
  /-- A SEEDS whose source answered EOS (R136); the block makes no further request. -/
  | seedEnded
  /-- `rsp_valid = 1`, with status and data held stable (R92). -/
  | responding (r : Response)
deriving DecidableEq, Repr

/-- The two outside agents (R30, R313), in the order their actions reach the block. Not part of the block. -/
structure Env where
  /-- HOST asserts `rst` at the next step (R340). -/
  rst      : Bool
  /-- The commands HOST will offer, first one first (R76, R91). -/
  cmds     : List Command
  /-- The level of `rsp_ready` (R92). -/
  rspReady : Bool
  /-- The answers SEED will give, first one first (R79, R108). -/
  seeds    : List SeedAnswer
  /-- The responses HOST has taken, oldest first (R76, R92). -/
  taken    : List Response
deriving DecidableEq, Repr

/-- The state: the build-time configuration, the record `(K, KP, CTR, BLK, CUR)` of R31, the ports, and the outside
agents. `CUR` is a register of LOG2S + 1 bits (R36) held in 6 bits, the widest (log entry 3). -/
structure State where
  cfg  : Config
  K    : Quad
  KP   : Word
  CTR  : Quad
  BLK  : Quad
  CUR  : BitVec 6
  port : Port
  env  : Env
deriving DecidableEq, Repr

/-- Why the machine could stop with a fault: never. The block has no trap and no fault, an error is a response status
(60_exceptions.md R300, R305), and a wait that only another agent can end is a wait, not a fault (R347); so this type
has no constructor. -/
inductive Fault
deriving DecidableEq, Repr

/-- Why a step could be refused. -/
inductive Refusal where
  /-- An instruction of the opcode table without a meaning yet; raised by no arm of `exec`. Safe: the model stops. -/
  | notModelled (mnemonic : String)
deriving DecidableEq, Repr

/-- An environment that does nothing by itself: no reset asserted, no command offered, the host ready to take a
response, no seed answer waiting, no response taken. DESIGN CHOICE (log entry 2): the spec leaves the outside open. -/
def Env.quiet : Env := ⟨false, [], true, [], []⟩

/-- The reset state of a block of configuration `c`: R43, row by row. -/
def State.resetOf (c : Config) : State where
  cfg  := c
  K    := Quad.zero
  KP   := parity Quad.zero
  CTR  := Quad.zero
  BLK  := encrypt Quad.zero Quad.zero (parity Quad.zero) c.rounds
  CUR  := 0
  port := .idle
  env  := Env.quiet

/-- The machine right after reset, for the configuration of log entry 1. -/
def State.reset : State := State.resetOf Config.standard

/-- The five registers of R31, for statements about what a command leaves unchanged. -/
structure Regs where
  K   : Quad
  KP  : Word
  CTR : Quad
  BLK : Quad
  CUR : BitVec 6
deriving DecidableEq, Repr

/-- The registers of a state. -/
def State.regs (s : State) : Regs := ⟨s.K, s.KP, s.CTR, s.BLK, s.CUR⟩

end Sys2Proof.Machine
end

