-- ==== Sys2Proof/Machine/Flags.lean ====
section
/-! DEFINITION. The block has no condition codes, flags or sticky status bits (10_state.md R40), so there is no flag
computation. Each command's outcome is its own response status, whose 3-bit code is here (30_encoding.md R103). -/

namespace Sys2Proof.Machine

/-- `rsp_status[2:0]` (R103): codes 0 to 4; 5 to 7 are never produced. -/
def Status.code : Status → BitVec 3
  | .ok => 0
  | .seedExhausted => 1
  | .illegalCommand => 2
  | .illegalIndex => 3
  | .illegalOperand => 4

end Sys2Proof.Machine
end

