-- ==== Sys2Proof/Machine/Operands.lean ====
section
/-! DEFINITION. What a command's index and operand select: implemented words (10_state.md R32, R34), the cursor field
(44_engine.md R254), the sample of the output multiplexer (43_output_extractor.md R230, R231) and the information
registers (10_state.md R41). -/

namespace Sys2Proof.Machine

/-- Key word `i` is implemented (R32). -/
def keyWordImplemented (c : Config) (i : Fin 4) : Bool := decide (i.val < c.ks)

/-- Counter word `i` is implemented (R34). -/
def ctrWordImplemented (c : Config) (i : Fin 4) : Bool := decide (i.val < c.cs)

/-- The indices of the implemented counter words, least significant first. -/
def ctrIndices (c : Config) : List (Fin 4) := ([0, 1, 2, 3] : List (Fin 4)).take c.cs

/-- A cursor value CURWR takes: `cmd_data ≤ S`, compared in full 64 bits (R254). -/
def cursorLegal (c : Config) (p : Word) : Bool := decide (p.toNat ≤ c.S)

/-- `cmd_data[LOG2S:0]` (R254), in the 6 bits the cursor is held in. -/
def cursorField (c : Config) (p : Word) : BitVec 6 := (p.extractLsb' 0 (c.log2S + 1)).setWidth 6

/-- `EXTRACT(BLK, n) = B256[n*W + W - 1 : n*W]` (R230). -/
def extract (w : Width) (blk : Quad) (n : Nat) : BitVec w.bits := blk.b256.extractLsb' (n * w.bits) w.bits

/-- The multiplexer form of EXTRACT: a field within one word (R231). -/
def extractMux (w : Width) (blk : Quad) (n : Nat) : BitVec w.bits :=
  ((blk.toList.getD (n * w.bits / 64) 0) >>> (n * w.bits % 64)).setWidth w.bits

/-- `zext_64` of a sample, a cursor or a constant (30_encoding.md R97). -/
def zext64 {n : Nat} (v : BitVec n) : Word := v.setWidth 64

/-- INFO_CONFIG (R41, 44_engine.md R256): `zext_64(R) << 16 | CS << 11 | KS << 8 | W`. -/
def infoConfig (c : Config) : Word :=
  zext64 c.R <<< 16 ||| BitVec.ofNat 64 c.cs <<< 11 ||| BitVec.ofNat 64 c.ks <<< 8 ||| BitVec.ofNat 64 c.W.bits

/-- INFO_MAX: `zext_64(2^W − 1)` (R41, R232). -/
def infoMax (c : Config) : Word := zext64 (BitVec.allOnes c.W.bits)

/-- Information register `i` (R41); INFO_PARITY is `kp`. -/
def infoRegister (c : Config) (kp : Word) (i : Fin 4) : Word :=
  match i with
  | 0 => 0
  | 1 => infoMax c
  | 2 => infoConfig c
  | 3 => kp

end Sys2Proof.Machine
end

