-- ==== Sys2Proof/Machine/Ops.lean ====
section
/-! DEFINITION. The shared operations: reading and writing the register files, the one response of a command and its
error form (00_scope.md R12, 60_exceptions.md R300), the key-change tail (40_key_schedule.md R132), the counter
micro-operations (41_counter.md R161, R162), the discard arithmetic (44_engine.md R251), the seed pulls (30_encoding.md
R108), and reset (70_reset_and_hazards.md R340). -/

namespace Sys2Proof.Machine

namespace State

/-- The key file as it reads: words at and above KS are hard-wired to zero (10_state.md R32). -/
def keyWords (s : State) : Quad := s.K.hardwire s.cfg.ks

/-- The counter file as it reads: words at and above CS are hard-wired to zero (R34). -/
def ctrWords (s : State) : Quad := s.CTR.hardwire s.cfg.cs

/-- `val(CTR)` (00_scope.md R12). -/
def ctrVal (s : State) : Nat := s.CTR.val s.cfg.cs

/-- The block that the current counter and key give: `ENCRYPT(CTR, K, KP, R)` (42_mixing_network.md R197). -/
def currentBlock (s : State) : Quad := encrypt s.ctrWords s.keyWords s.KP s.cfg.rounds

/-- `BLK <- ENCRYPT(CTR, K, KP, R)`. -/
def recomputeBlock (s : State) : State := { s with BLK := s.currentBlock }

/-- `respond(status, data)`: the command's single response is offered on the response port (R12, R92). -/
def respond (s : State) (st : Status) (d : Word) : State := { s with port := .responding ⟨st, d⟩ }

/-- `raise <Error>`: every state register as before the command, `rsp_data = 0` (R12, R300). Nothing is saved and
there is no return from it (R305). -/
def raise (s : State) (st : Status) : State := s.respond st 0

/-- `KEY_CHANGE_TAIL()` (R132). -/
def keyChangeTail (s : State) : State :=
  recomputeBlock { s with KP := parity s.keyWords, CTR := Quad.zero, CUR := 0 }

end State

/-- The carry chain of R161 and R162: adds the carry to each word in turn, a carry leaving a word that wraps to 0. A
carry out of the last word is dropped (R160). -/
def ripple : List (Fin 4) → Bool → Quad → Quad
  | [], _, q => q
  | i :: is, carry, q =>
    if carry then ripple is (q.get i + 1 == 0) (q.set i (q.get i + 1)) else ripple is false q

/-- `INC()` on the implemented words (R161). -/
def inc (c : Config) (q : Quad) : Quad := ripple (ctrIndices c) true q

/-- `ADVANCE(delta)`: delta is added to word 0 with the overflow test of the source, and the carry ripples through
the words above (R162). -/
def advance (c : Config) (delta : Word) (q : Quad) : Quad :=
  ripple (ctrIndices c).tail (decide (delta.toNat > 0xFFFFFFFFFFFFFFFF - q.w0.toNat)) (q.set 0 (q.w0 + delta))

/-- What DISCARD computes from the cursor and `n ≠ 0` (R251): the blocks to advance and the new cursor. -/
structure DiscardPlan where
  blocks : Word
  cursor : BitVec 6
deriving DecidableEq, Repr

/-- The discard arithmetic unit (R251, R252), in 65 bits: `P = CUR + n`, `q = (P - 1) >> LOG2S`,
`c = ((P - 1) & (S - 1)) + 1`. -/
def discardPlan (c : Config) (cur : BitVec 6) (n : Word) : DiscardPlan :=
  let p : BitVec 65 := cur.setWidth 65 + n.setWidth 65
  ⟨((p - 1) >>> c.log2S).setWidth 64, (((p - 1) &&& (BitVec.ofNat 65 c.S - 1)) + 1).setWidth 6⟩

namespace State

/-- The counter moved on by one block, and the new block computed (44_engine.md R250). -/
def nextBlock (s : State) : State := recomputeBlock { s with CTR := inc s.cfg s.CTR }

/-- The counter moved on by `q` blocks, and the new block computed (R251). -/
def advanceBlocks (s : State) (q : Word) : State := recomputeBlock { s with CTR := advance s.cfg q s.CTR }

/-- Sample `n` of the current block on the data path (R230, R97). -/
def sample (s : State) (n : Nat) : Word := zext64 (extract s.cfg.W s.BLK n)

/-- The state part of DISCARD n (R251). -/
def discardBy (s : State) (n : Word) : State :=
  if n = 0 then s
  else
    let plan := discardPlan s.cfg s.CUR n
    if plan.blocks = 0 then { s with CUR := plan.cursor }
    else { s.advanceBlocks plan.blocks with CUR := plan.cursor }

/-- The key file loaded whole from a list of words, missing ones zero, and the key-change tail (R135, R136). -/
def loadKey (s : State) (ws : List Word) : State := keyChangeTail { s with K := Quad.ofList ws }

/-- SEEDS takes one answer while a request is outstanding (R108, R136): `seed_req` falls; a word goes into the
buffer, EOS ends the sequence. -/
def seedTake (s : State) (buf : List Word) : SeedAnswer → State
  | .eos => { s with port := .seedEnded }
  | .word v => { s with port := .seeding false (buf ++ [v]) }

/-- What SEEDS does between answers (R136): the next request while fewer than KS words have come, else the key is
loaded and the command responds; after EOS it fails with SEED_EXHAUSTED. While a request is outstanding there is
nothing to do but wait (R347). -/
def seedProceed (s : State) : State :=
  match s.port with
  | .seeding false buf =>
    if buf.length < s.cfg.ks then { s with port := .seeding true buf }
    else (s.loadKey (buf.take s.cfg.ks)).respond .ok 0
  | .seedEnded => s.raise .seedExhausted
  | _ => s

/-- `SeedPull()` as often as SEEDS asks (R12, R79, R136), against the answers SEED will give: each answer taken is
consumed. When the answers run out with a request outstanding, the command keeps waiting (R347). -/
def seedRun : List SeedAnswer → State → State
  | [], s => { s with env := { s.env with seeds := [] } }
  | a :: as, s =>
    match s.port with
    | .seeding true buf => seedRun as (seedProceed (s.seedTake buf a))
    | _ => { s with env := { s.env with seeds := a :: as } }

/-- SEEDS goes on from where it is until it responds or has no answer to take. -/
def seedPull (s : State) : State := seedRun s.env.seeds (seedProceed s)

/-- The reset event on the block (R340, R43): every register at its reset value, a command in progress abandoned
without a response, no request outstanding; `cmd_ready` rises later. What the outside agents hold is theirs. -/
def resetBlock (s : State) : State := { State.resetOf s.cfg with port := .starting, env := s.env }

end State

end Sys2Proof.Machine
end

