-- ==== Sys2Proof/Machine/Counter.lean ====
section
/-! DEFINITION. The counter commands CTRWR and CTRRD (41_counter.md R164, R165). -/

namespace Sys2Proof.Machine

/-- CTRWR (R164): one counter word, CUR ← 0, a new block; ILLEGAL_INDEX when IDX ≥ CS. -/
def execCtrwr (i : Fin 4) (v : Word) (s : State) : Host.Outcome State Fault Refusal :=
  if ctrWordImplemented s.cfg i then
    .next ((State.recomputeBlock { s with CTR := s.CTR.set i v, CUR := 0 }).respond .ok 0)
  else .next (s.raise .illegalIndex)

/-- CTRRD (R165): CTR[IDX], zero for IDX ≥ CS. -/
def execCtrrd (i : Fin 4) (s : State) : Host.Outcome State Fault Refusal :=
  .next (s.respond .ok (s.ctrWords.get i))

end Sys2Proof.Machine
end

