-- ==== Sys2Proof/Machine/Engine.lean ====
section
/-! DEFINITION. The engine commands NOP, NEXT, DISCARD, CURWR, CURRD, INFORD (44_engine.md R250 to R257) and the block
read BLKRD (42_mixing_network.md R200). -/

namespace Sys2Proof.Machine

/-- NOP (R257). -/
def execNop (s : State) : Host.Outcome State Fault Refusal := .next (s.respond .ok 0)

/-- NEXT (R250): the next sample; an exhausted block first moves the counter on and takes the new block's sample 0. -/
def execNext (s : State) : Host.Outcome State Fault Refusal :=
  if s.CUR.toNat < s.cfg.S then .next (State.respond { s with CUR := s.CUR + 1 } .ok (s.sample s.CUR.toNat))
  else .next (State.respond { s.nextBlock with CUR := 1 } .ok (s.nextBlock.sample 0))

/-- DISCARD n (R251). -/
def execDiscard (n : Word) (s : State) : Host.Outcome State Fault Refusal := .next ((s.discardBy n).respond .ok 0)

/-- CURWR (R254): ILLEGAL_OPERAND above S. -/
def execCurwr (p : Word) (s : State) : Host.Outcome State Fault Refusal :=
  if cursorLegal s.cfg p then .next (State.respond { s with CUR := cursorField s.cfg p } .ok 0)
  else .next (s.raise .illegalOperand)

/-- CURRD (R255). -/
def execCurrd (s : State) : Host.Outcome State Fault Refusal := .next (s.respond .ok (zext64 s.CUR))

/-- BLKRD (R200). -/
def execBlkrd (i : Fin 4) (s : State) : Host.Outcome State Fault Refusal := .next (s.respond .ok (s.BLK.get i))

/-- INFORD (R256). -/
def execInford (i : Fin 4) (s : State) : Host.Outcome State Fault Refusal :=
  .next (s.respond .ok (infoRegister s.cfg s.KP i))

end Sys2Proof.Machine
end

