-- ==== Sys2Proof/Machine/Keys.lean ====
section
/-! DEFINITION. The key and seed commands: KEYWR, KEYRD, SEEDI, SEEDS (40_key_schedule.md R133 to R136). -/

namespace Sys2Proof.Machine

/-- KEYWR (R133): one key word, then the key-change tail; ILLEGAL_INDEX when IDX ≥ KS. -/
def execKeywr (i : Fin 4) (v : Word) (s : State) : Host.Outcome State Fault Refusal :=
  if keyWordImplemented s.cfg i then .next ((State.keyChangeTail { s with K := s.K.set i v }).respond .ok 0)
  else .next (s.raise .illegalIndex)

/-- KEYRD (R134): K[IDX], zero for IDX ≥ KS. -/
def execKeyrd (i : Fin 4) (s : State) : Host.Outcome State Fault Refusal :=
  .next (s.respond .ok (s.keyWords.get i))

/-- SEEDI (R135): K[0] ← v when KS ≥ 1, every other key word zero, then the key-change tail. -/
def execSeedi (v : Word) (s : State) : Host.Outcome State Fault Refusal :=
  .next ((s.loadKey (if 1 ≤ s.cfg.ks then [v] else [])).respond .ok 0)

/-- SEEDS (R136): KS words pulled from the seed source one at a time. On EOS the command fails with SEED_EXHAUSTED; while
the source does not answer, the command waits (R347) and goes on when a step finds an answer. -/
def execSeeds (s : State) : Host.Outcome State Fault Refusal :=
  .next (State.seedPull { s with port := .seeding false [] })

end Sys2Proof.Machine
end

