-- ==== Sys2Proof/Machine/Dispatch.lean ====
section
/-! DEFINITION. One arm per command: each calls its meaning. -/

namespace Sys2Proof.Machine

/-- The meaning of a decoded command (40 to 44 of spec/). -/
def exec (i : Instr) (s : State) : Host.Outcome State Fault Refusal :=
  match i with
  | .nop => Sys2Proof.Machine.execNop s
  | .next => Sys2Proof.Machine.execNext s
  | .discard n => Sys2Proof.Machine.execDiscard n s
  | .seedi v => Sys2Proof.Machine.execSeedi v s
  | .seeds => Sys2Proof.Machine.execSeeds s
  | .keywr idx v => Sys2Proof.Machine.execKeywr idx v s
  | .keyrd idx => Sys2Proof.Machine.execKeyrd idx s
  | .ctrwr idx v => Sys2Proof.Machine.execCtrwr idx v s
  | .ctrrd idx => Sys2Proof.Machine.execCtrrd idx s
  | .curwr p => Sys2Proof.Machine.execCurwr p s
  | .currd => Sys2Proof.Machine.execCurrd s
  | .blkrd idx => Sys2Proof.Machine.execBlkrd idx s
  | .inford idx => Sys2Proof.Machine.execInford idx s

end Sys2Proof.Machine
end

