-- ==== Sys2Proof/Machine/Fetch.lean ====
section
/-! DEFINITION. What the block does around a command at transaction level: acceptance, running the latched command,
the response, reset (30_encoding.md R91 to R93, 20_memory.md R76, 70_reset_and_hazards.md R340). -/

namespace Sys2Proof.Machine

/-- The latched command decoded and executed; a word that does not decode is rejected with ILLEGAL_COMMAND and changes
no state (R99, R100). Decoding comes before every other check (60_exceptions.md R303). -/
def runLatched (c : Command) (s : State) : Host.Outcome State Fault Refusal :=
  match decode c with
  | none => .next (s.raise .illegalCommand)
  | some i => exec i s

namespace State

/-- Acceptance: the first command HOST offers is latched (R91). With none offered the block stays as it is. -/
def accept (s : State) : State :=
  match s.env.cmds with
  | [] => s
  | c :: cs => { s with port := .busy c, env := { s.env with cmds := cs } }

/-- Delivery: HOST takes the response and the block is idle again (R92, R93); while `rsp_ready = 0` the response is
held. -/
def deliver (s : State) (r : Response) : State :=
  if s.env.rspReady then { s with port := .idle, env := { s.env with taken := s.env.taken ++ [r] } } else s

/-- The reset HOST has asserted is taken (R340); HOST has then held `rst` for its one event (log entry 8). -/
def takeReset (s : State) : State :=
  { s.resetBlock with env := { s.env with rst := false } }

/-- After reset, `cmd_ready` rises (R340). -/
def becomeReady (s : State) : State := { s with port := .idle }

end State

end Sys2Proof.Machine
end

