-- ==== Sys2Proof/Machine/Step.lean ====
section
/-! DEFINITION. One step of the block at transaction level (00_scope.md R9, R13; 92_eei_decisions.md D1): reset if it is
asserted, else what the ports are at: accept a command, run the latched one, go on with a SEEDS, deliver a response. A
step in which the block waits for HOST or SEED changes nothing (70_reset_and_hazards.md R347, log entry 4). -/

namespace Sys2Proof.Machine

/-- One step. It always answers a next state. -/
def step (s : State) : Host.Outcome State Fault Refusal :=
  if s.env.rst then .next s.takeReset
  else
    match s.port with
    | .starting => .next s.becomeReady
    | .idle => .next s.accept
    | .busy c => runLatched c s
    | .seeding _ _ => .next s.seedPull
    | .seedEnded => .next s.seedPull
    | .responding r => .next (s.deliver r)

/-- The state with the command of those bits latched (R91), which is where `step` takes its next instruction from; no
reset is asserted, so that the very next step runs it. -/
def State.withFetchWord (s : State) (nbits w : Nat) : State :=
  { s with port := .busy (commandOfBits nbits w), env := { s.env with rst := false } }

end Sys2Proof.Machine
end

