-- ==== Sys2Proof/Machine/Session.lean ====
section
/-! DEFINITION. What the spec says over whole sequences of commands: the host's transactions one after another
(20_memory.md R76), equality of two blocks (10_state.md R38), the stream position and period (R44, R45), the sample
stream (43_output_extractor.md R233), and the pseudo-commands as command lists (30_encoding.md R106). -/

namespace Sys2Proof.Machine

/-- One whole transaction: the command latched, run, its response taken, the block idle again (R91 to R93). `none` when
the command does not respond, which is a SEEDS whose source does not answer (R347). -/
def issue (c : Command) (s : State) : Option (Response × State) :=
  match runLatched c { s with port := .busy c } with
  | .next t =>
    match t.port with
    | .responding r => some (r, { t with port := .idle })
    | _ => none
  | .fault _ => none
  | .refused _ => none

/-- Transactions in order, with their responses; it ends early at a command that does not respond. -/
def issueAll : List Command → State → List Response × State
  | [], s => ([], s)
  | c :: cs, s =>
    match issue c s with
    | none => ([], s)
    | some (r, t) =>
      let (rs, u) := issueAll cs t
      (r :: rs, u)

/-- Decoded commands executed one after another, without the ports: for statements about repeated commands (44_engine.md
R253). -/
def execAll : List Instr → State → Host.Outcome State Fault Refusal
  | [], s => .next s
  | i :: is, s =>
    match exec i s with
    | .next t => execAll is t
    | .fault r => .fault r
    | .refused r => .refused r

/-- Two blocks are equal (R38): K, CTR and CUR equal word for word; KP and BLK take no part. R38 leaves equality between
blocks of different configurations undefined. DESIGN CHOICE, unsafe (log entry 16): here it is false. -/
def engineEq (s t : State) : Prop :=
  s.cfg = t.cfg ∧ s.keyWords = t.keyWords ∧ s.ctrWords = t.ctrWords ∧ s.CUR = t.CUR

/-- The number of counter values, `2^(64·CS)` (R34, R160). -/
def counterRange (c : Config) : Nat := 2 ^ (64 * c.cs)

/-- The period of the sample stream, `2^(64·CS) · S` (R45). -/
def period (c : Config) : Nat := counterRange c * c.S

/-- The stream position `(val(CTR) · S + CUR) mod period` (R44). -/
def streamPos (s : State) : Nat := (s.ctrVal * s.cfg.S + s.CUR.toNat) % period s.cfg

/-- The counter file that holds the integer `v`, word 0 least significant, on `n` implemented words (R34). -/
def ctrOfVal (n v : Nat) : Quad :=
  Quad.hardwire n ⟨BitVec.ofNat 64 v, BitVec.ofNat 64 (v / 2 ^ 64), BitVec.ofNat 64 (v / 2 ^ 128),
    BitVec.ofNat 64 (v / 2 ^ 192)⟩

/-- `sample(k)` of R233 for the stream that starts at block `val(CTR)`, sample 0. -/
def streamSample (s : State) (k : Nat) : Word :=
  zext64 (extract s.cfg.W
    (encrypt (ctrOfVal s.cfg.cs ((s.ctrVal + k / s.cfg.S) % counterRange s.cfg)) s.keyWords (parity s.keyWords)
      s.cfg.rounds)
    (k % s.cfg.S))

/-- Index `i` of a word file as a two-bit field. -/
def wordIndex (i : Nat) : Fin 4 := Fin.ofNat 4 i

/-- `SETKEY v0, …` (R106): KEYWR of each word in turn, from slot 0. -/
def setkeyCommands (vs : List Word) : List Command := vs.zipIdx.map fun p => encode (.keywr (wordIndex p.2) p.1)

/-- `SETCTR w0, …` (R106): CTRWR of each word in turn, from slot 0. -/
def setctrCommands (ws : List Word) : List Command := ws.zipIdx.map fun p => encode (.ctrwr (wordIndex p.2) p.1)

/-- `SERIALIZE` (R106): the implemented key words, the implemented counter words, the cursor. -/
def serializeCommands (c : Config) : List Command :=
  ((List.range c.ks).map fun i => encode (.keyrd (wordIndex i))) ++
    ((List.range c.cs).map fun i => encode (.ctrrd (wordIndex i))) ++ [encode .currd]

/-- `DESERIALIZE v…, w…, p` (R106): the key words, then the counter words, then the cursor. -/
def deserializeCommands (c : Config) (args : List Word) : List Command :=
  setkeyCommands (args.take c.ks) ++ setctrCommands ((args.drop c.ks).take c.cs) ++
    ((args.drop (c.ks + c.cs)).take 1).map fun p => encode (.curwr p)

end Sys2Proof.Machine
end

