-- ==== Sys2Proof/Machine/Assembler.lean ====
section
/-! DEFINITION. The assembler of 30_encoding.md R105 and R106: from a line of text to a source line, and from a source
line to the commands it emits. Text is a list of characters. -/

namespace Sys2Proof.Machine

namespace Asm

/-- A blank between the parts of a line. DESIGN CHOICE, safe (log entry 13): R105 does not say which characters. -/
def isBlank (c : Char) : Bool := c == ' ' || c == '\t'

/-- `;` starts a comment (R105). -/
def stripComment (l : List Char) : List Char := l.takeWhile (· != ';')

/-- A text without the blanks at its two ends. -/
def trim (l : List Char) : List Char := ((l.dropWhile isBlank).reverse.dropWhile isBlank).reverse

/-- The parts of a text between commas. -/
def splitCommas : List Char → List (List Char)
  | [] => [[]]
  | c :: cs =>
    match splitCommas cs with
    | [] => [[c]]
    | p :: ps => if c == ',' then [] :: p :: ps else (c :: p) :: ps

/-- The operands after the mnemonic: none, or the parts between commas. DESIGN CHOICE, safe (log entry 13): blanks may stand
around each, and an empty part is no operand that any line takes. -/
def operands (l : List Char) : List (List Char) :=
  match trim l with
  | [] => []
  | cs => (splitCommas cs).map trim

/-- The value of a digit, letters in either case. -/
def digit (c : Char) : Option Nat :=
  if '0' ≤ c ∧ c ≤ '9' then some (c.toNat - '0'.toNat)
  else if 'a' ≤ c ∧ c ≤ 'f' then some (c.toNat - 'a'.toNat + 10)
  else if 'A' ≤ c ∧ c ≤ 'F' then some (c.toNat - 'A'.toNat + 10)
  else none

/-- The value of digits in a base, most significant first, after the value `acc` of the digits before them. -/
def digitsFrom (base : Nat) : Nat → List Char → Option Nat
  | acc, [] => some acc
  | acc, c :: cs =>
    match digit c with
    | some d => if d < base then digitsFrom base (acc * base + d) cs else none
    | none => none

/-- At least one digit. -/
def digits (base : Nat) : List Char → Option Nat
  | [] => none
  | c :: cs => digitsFrom base 0 (c :: cs)

/-- A number: decimal, or hexadecimal with a `0x` prefix (R105). DESIGN CHOICE, safe (log entry 13): leading zeros are
taken. -/
def number : List Char → Option Nat
  | '0' :: 'x' :: ds => digits 16 ds
  | ds => digits 10 ds

/-- A word index written `k<i>`, `c<i>` or `b<i>` (R105). DESIGN CHOICE, safe (log entry 13): `i` is decimal and may have
leading zeros, so that `k03` is `k3`. -/
def index (letter : Char) : List Char → Option Nat
  | [] => none
  | c :: ds => if c == letter then digits 10 ds else none

/-- Every operand a number. -/
def numbers : List (List Char) → Option (List Nat)
  | [] => some []
  | o :: os =>
    match number o, numbers os with
    | some n, some ns => some (n :: ns)
    | _, _ => none

/-- A source line from its mnemonic in capitals and its operands (R105, R106). DESIGN CHOICE, safe (log entry 13): the bare
index of INFORD is any number, so that `0x3` is `3`. -/
def lineOf (mnemonic : List Char) (ops : List (List Char)) : Option AsmLine :=
  match mnemonic, ops with
  | ['N', 'O', 'P'], [] => some .nop
  | ['N', 'E', 'X', 'T'], [] => some .next
  | ['D', 'I', 'S', 'C', 'A', 'R', 'D'], [n] => (number n).map .discard
  | ['S', 'E', 'E', 'D', 'I'], [v] => (number v).map .seedi
  | ['S', 'E', 'E', 'D', 'S'], [] => some .seeds
  | ['K', 'E', 'Y', 'W', 'R'], [i, v] => (index 'k' i).bind fun i => (number v).map (.keywr i)
  | ['K', 'E', 'Y', 'R', 'D'], [i] => (index 'k' i).map .keyrd
  | ['C', 'T', 'R', 'W', 'R'], [i, v] => (index 'c' i).bind fun i => (number v).map (.ctrwr i)
  | ['C', 'T', 'R', 'R', 'D'], [i] => (index 'c' i).map .ctrrd
  | ['C', 'U', 'R', 'W', 'R'], [v] => (number v).map .curwr
  | ['C', 'U', 'R', 'R', 'D'], [] => some .currd
  | ['B', 'L', 'K', 'R', 'D'], [i] => (index 'b' i).map .blkrd
  | ['I', 'N', 'F', 'O', 'R', 'D'], [i] => (number i).map .inford
  | ['.', 'W', 'O', 'R', 'D'], [w] => (number w).map fun w => .word w 0
  | ['.', 'W', 'O', 'R', 'D'], [w, d] => (number w).bind fun w => (number d).map (.word w)
  | ['S', 'E', 'T', 'K', 'E', 'Y'], vs => (numbers vs).map .setkey
  | ['S', 'E', 'T', 'C', 'T', 'R'], ws => (numbers ws).map .setctr
  | ['S', 'E', 'R', 'I', 'A', 'L', 'I', 'Z', 'E'], [] => some .serialize
  | ['D', 'E', 'S', 'E', 'R', 'I', 'A', 'L', 'I', 'Z', 'E'], args => (numbers args).map .deserialize
  | ['R', 'D', 'M', 'I', 'N'], [] => some .rdmin
  | ['R', 'D', 'M', 'A', 'X'], [] => some .rdmax
  | ['R', 'D', 'C', 'O', 'N', 'F', 'I', 'G'], [] => some .rdconfig
  | ['R', 'D', 'P', 'A', 'R', 'I', 'T', 'Y'], [] => some .rdparity
  | _, _ => none

/-- What a line of text holds: nothing (blank, or a comment only), a source line, or something that is no line. DESIGN
CHOICE, safe (log entry 13): a line with no command is taken and emits nothing; R105 is silent. -/
inductive Parsed where
  | blank
  | line (l : AsmLine)
  | malformed
deriving DecidableEq, Repr

/-- One line of text: `MNEMONIC [operands]`, mnemonics case-insensitive (R105). DESIGN CHOICE, safe (log entry 13): the
directive `.word` and the pseudo-commands are case-insensitive too, and blanks may stand before the mnemonic. -/
def parse (text : List Char) : Parsed :=
  match trim (stripComment text) with
  | [] => .blank
  | cs =>
    let mnemonic := (cs.takeWhile fun c => !isBlank c).map Char.toUpper
    match lineOf mnemonic (operands (cs.dropWhile fun c => !isBlank c)) with
    | some l => .line l
    | none => .malformed

end Asm

/-- A number as a 64-bit operand word. -/
def operandWord (n : Nat) : Word := BitVec.ofNat 64 n

/-- The commands of a well-formed source line for a block of configuration `c` (R105, R106). -/
def AsmLine.commands (c : Config) : AsmLine → List Command
  | .nop => [encode .nop]
  | .next => [encode .next]
  | .discard n => [encode (.discard (operandWord n))]
  | .seedi v => [encode (.seedi (operandWord v))]
  | .seeds => [encode .seeds]
  | .keywr i v => [encode (.keywr (wordIndex i) (operandWord v))]
  | .keyrd i => [encode (.keyrd (wordIndex i))]
  | .ctrwr i v => [encode (.ctrwr (wordIndex i) (operandWord v))]
  | .ctrrd i => [encode (.ctrrd (wordIndex i))]
  | .curwr v => [encode (.curwr (operandWord v))]
  | .currd => [encode .currd]
  | .blkrd i => [encode (.blkrd (wordIndex i))]
  | .inford i => [encode (.inford (wordIndex i))]
  | .word w d => [⟨BitVec.ofNat 32 w, operandWord d⟩]
  | .setkey vs => setkeyCommands (vs.map operandWord)
  | .setctr ws => setctrCommands (ws.map operandWord)
  | .serialize => serializeCommands c
  | .deserialize args => deserializeCommands c (args.map operandWord)
  | .rdmin => [encode (.inford 0)]
  | .rdmax => [encode (.inford 1)]
  | .rdconfig => [encode (.inford 2)]
  | .rdparity => [encode (.inford 3)]

/-- The assembler: a line outside R105 is refused (`none`). -/
def assemble (c : Config) (l : AsmLine) : Option (List Command) :=
  if l.wf c then some (AsmLine.commands c l) else none

end Sys2Proof.Machine
end

