-- ==== Sys2Proof/Machine/Ports.lean ====
section
/-! DEFINITION. The block at its pins (30_encoding.md R90 to R93, R103, R108; 70_reset_and_hazards.md R340): one rising
edge of `clk` with the input pins sampled, and the output pins a state drives. The same state and the same operations as
`step`; here SEEDS takes its answers one edge at a time, and every finite latency is allowed (00_scope.md R9, R345). -/

namespace Sys2Proof.Machine

/-- The input pins at a rising edge (R90). -/
structure PinsIn where
  rst      : Bool
  cmdValid : Bool
  cmdWord  : BitVec 32
  cmdData  : Word
  rspReady : Bool
  seedAck  : Bool
  seedEos  : Bool
  seedData : Word
deriving DecidableEq, Repr

/-- The output pins (R90). `rsp` is `none` when `rsp_valid = 0`: the spec gives `rsp_status` and `rsp_data` no value
then, and neither does the model (log entry 9). -/
structure PinsOut where
  cmdReady : Bool
  rsp      : Option (BitVec 3 × Word)
  seedReq  : Bool
deriving DecidableEq, Repr

/-- One rising edge: the input pins, and whether the work in hand finishes at this edge. `finish` is no pin: it is the
latency the spec leaves open (L_ENC and L_CMD, R9, R345); every sequence of values is a possible block. -/
structure Edge where
  pins   : PinsIn
  finish : Bool
deriving DecidableEq, Repr

/-- The output pins of a state while the input pin `rst` is as given: during reset `cmd_ready`, `rsp_valid` and
`seed_req` are 0 (R340). -/
def pinsOut (rst : Bool) (s : State) : PinsOut :=
  if rst then ⟨false, none, false⟩
  else
    match s.port with
    | .starting => ⟨false, none, false⟩
    | .idle => ⟨true, none, false⟩
    | .busy _ => ⟨false, none, false⟩
    | .seeding req _ => ⟨false, none, req⟩
    | .seedEnded => ⟨false, none, false⟩
    | .responding r => ⟨false, some (r.status.code, r.data), false⟩

/-- The answer on the seed port at an edge with `seed_ack = 1` (R108). -/
def seedPins (p : PinsIn) : SeedAnswer := if p.seedEos then .eos else .word p.seedData

/-- The end of the latency of a latched command: its whole effect at once (R13), but for SEEDS, which begins its
requests (R108). -/
def State.finishCommand (c : Command) (s : State) : State :=
  match decode c with
  | none => s.raise .illegalCommand
  | some .seeds => State.seedProceed { s with port := .seeding false [] }
  | some i =>
    match exec i s with
    | .next t => t
    | .fault _ => s
    | .refused _ => s

/-- An edge without reset with a command latched: its work ends at this edge, or goes on (R9, R345). -/
def State.commandEdge (e : Edge) (c : Command) (s : State) : State := if e.finish then s.finishCommand c else s

/-- The command port at an edge without reset while the block is idle: acceptance iff `cmd_valid = 1` (R91). The work of
the accepted command may end at the accepting edge itself, the least latency R345 admits. DESIGN CHOICE, safe (log entry 11). -/
def State.acceptPins (e : Edge) (s : State) : State :=
  if e.pins.cmdValid then
    State.commandEdge e ⟨e.pins.cmdWord, e.pins.cmdData⟩ { s with port := .busy ⟨e.pins.cmdWord, e.pins.cmdData⟩ }
  else s

/-- No further request will come in the SEEDS in progress: KS words are there, or EOS was answered (R108, R136). -/
def State.seedComplete (s : State) : Bool :=
  match s.port with
  | .seeding _ buf => decide (s.cfg.ks ≤ buf.length)
  | .seedEnded => true
  | _ => false

/-- An edge without reset at which SEEDS has no request outstanding: its work ends at this edge, or goes on. -/
def State.seedWork (e : Edge) (s : State) : State := if e.finish then s.seedProceed else s

/-- The seed port at an edge without reset while a request is outstanding (R108): the request is held until
`seed_ack = 1`. After the last answer SEEDS may end at the answering edge itself (R345; DESIGN CHOICE, safe, log entry 11);
after any other, `seed_req` is 0 for at least one edge (R108.3). -/
def State.seedEdge (e : Edge) (buf : List Word) (s : State) : State :=
  if e.pins.seedAck then
    let t := s.seedTake buf (seedPins e.pins)
    if t.seedComplete then t.seedWork e else t
  else s

/-- An edge with `rst = 1` (R340): the reset event; the delay until `cmd_ready` rises may already be over at this edge,
in which case `cmd_ready` is 1 as soon as `rst` is 0. DEDUCED, safe (log entry 11). -/
def State.resetEdge (e : Edge) (s : State) : State := if e.finish then s.resetBlock.becomeReady else s.resetBlock

/-- One rising edge of `clk` (R90). Reset wins over everything (R340, 92_eei_decisions.md D33). -/
def clockEdge (e : Edge) (s : State) : State :=
  if e.pins.rst then s.resetEdge e
  else
    match s.port with
    | .starting => if e.finish then s.becomeReady else s
    | .idle => s.acceptPins e
    | .busy c => s.commandEdge e c
    | .seeding true buf => s.seedEdge e buf
    | .seeding false _ => s.seedWork e
    | .seedEnded => s.seedWork e
    | .responding _ => if e.pins.rspReady then { s with port := .idle } else s

/-- A sequence of edges. -/
def runEdges : List Edge → State → State
  | [], s => s
  | e :: es, s => runEdges es (clockEdge e s)

/-- The answer the block takes from the seed port at an edge: one iff a request is outstanding, `seed_ack = 1` and no
reset (R108). -/
def seedTaken (e : Edge) (s : State) : List SeedAnswer :=
  match s.port with
  | .seeding true _ => if e.pins.seedAck && !e.pins.rst then [seedPins e.pins] else []
  | _ => []

/-- Edges up to the first at which a response is offered, with the seed answers taken on the way. -/
def runToResponse : List Edge → State → State × List SeedAnswer
  | [], s => (s, [])
  | e :: es, s =>
    match s.port with
    | .responding _ => (s, [])
    | _ =>
      let (t, as) := runToResponse es (clockEdge e s)
      (t, seedTaken e s ++ as)

end Sys2Proof.Machine
end

