-- ==== Sys2Proof/Machine/Duties.lean ====
section
/-! DEFINITION. What the outside owes the block, as assumptions on a whole run (60_exceptions.md R313,
70_reset_and_hazards.md R347): HOST raises `rsp_ready` eventually, SEED answers each request eventually, HOST holds an
offered command stable. Over runs of `clockEdge`, and over runs of `step` in which the outside acts before every step.
A run is a function of the edge or step number; no state holds it. -/

namespace Sys2Proof.Machine

-- AT THE PINS ----------------------------------------------------------------------------------------------------------

/-- The state before edge `n` of an endless sequence of edges. -/
def edgeRun (es : Nat → Edge) (s : State) : Nat → State
  | 0 => s
  | n + 1 => clockEdge (es n) (edgeRun es s n)

/-- The output pins at edge `n` of a run. -/
def pinsAt (es : Nat → Edge) (s : State) (n : Nat) : PinsOut := pinsOut (es n).pins.rst (edgeRun es s n)

/-- The duty "raise rsp_ready eventually" (R313): an offered response meets `rsp_ready = 1` at that edge or a later one. -/
def TakesResponses (es : Nat → Edge) (s : State) : Prop :=
  ∀ n, (pinsAt es s n).rsp.isSome = true → ∃ m, n ≤ m ∧ (es m).pins.rspReady = true

/-- The duty "answer each request eventually" (R313, R347): a seed request meets `seed_ack = 1` at that edge or a later
one. The answer is what the pins hold at the acknowledging edge. -/
def AnswersRequests (es : Nat → Edge) (s : State) : Prop :=
  ∀ n, (pinsAt es s n).seedReq = true → ∃ m, n ≤ m ∧ (es m).pins.seedAck = true

/-- The duty to hold `cmd_word` and `cmd_data` stable while `cmd_valid = 1` and `cmd_ready = 0` (R313). HOST may lower
`cmd_valid` meanwhile. DEDUCED, safe (log entry 19). -/
def HoldsCommand (es : Nat → Edge) (s : State) : Prop :=
  ∀ n, (es n).pins.cmdValid = true → (pinsAt es s n).cmdReady = false → (es (n + 1)).pins.cmdValid = true →
    (es (n + 1)).pins.cmdWord = (es n).pins.cmdWord ∧ (es (n + 1)).pins.cmdData = (es n).pins.cmdData

/-- The block has work of its own in hand, whose length is the latency. -/
def Port.working : Port → Bool
  | .starting => true
  | .idle => false
  | .busy _ => true
  | .seeding req _ => !req
  | .seedEnded => true
  | .responding _ => false

/-- Every latency is finite (00_scope.md R9, 30_encoding.md R93): the block's part, no duty of the outside. -/
def WorkEnds (es : Nat → Edge) (s : State) : Prop :=
  ∀ n, (edgeRun es s n).port.working = true → ∃ m, n ≤ m ∧ (es m).finish = true

/-- A fair run of edges: the two duties without which the block waits for ever, and finite latencies. -/
def FairEdges (es : Nat → Edge) (s : State) : Prop := TakesResponses es s ∧ AnswersRequests es s ∧ WorkEnds es s

-- AT TRANSACTION LEVEL -------------------------------------------------------------------------------------------------

/-- What the outside does before one step: whether `rst` is asserted for it, the commands HOST comes to offer, the level of
`rsp_ready`, and the answers SEED comes to give. DESIGN CHOICE, safe (log entry 19). -/
structure Turn where
  rst      : Bool
  cmds     : List Command
  rspReady : Bool
  seeds    : List SeedAnswer
deriving DecidableEq, Repr

/-- The outside acts: its levels are set, and its commands and answers queue behind those not yet taken. -/
def State.turn (t : Turn) (s : State) : State :=
  { s with env := { s.env with
      rst := t.rst
      cmds := s.env.cmds ++ t.cmds
      rspReady := t.rspReady
      seeds := s.env.seeds ++ t.seeds } }

/-- `run` is a run of `step` in which the outside acts as `turns` says before each step. -/
def IsRun (turns : Nat → Turn) (run : Nat → State) : Prop := ∀ n, step ((run n).turn (turns n)) = .next (run (n + 1))

/-- A fair run of steps (R313, R347): an offered response meets `rsp_ready = 1`, and an outstanding seed request meets an
answer, at that step or a later one. -/
def FairTurns (turns : Nat → Turn) (run : Nat → State) : Prop :=
  (∀ n r, (run n).port = .responding r → ∃ m, n ≤ m ∧ (turns m).rspReady = true) ∧
    ∀ n buf, (run n).port = .seeding true buf → ∃ m, n ≤ m ∧ (turns m).seeds ≠ []

end Sys2Proof.Machine
end

