-- ==== Sys2Proof/Safety.lean ====
section
/-! DEFINITION. What holds at every command boundary (10_state.md R37) and what a safe run is. -/

namespace Sys2Proof.Machine

/-- A SEEDS in progress has taken at most KS words, and asks for one only while fewer have come (30_encoding.md R108,
40_key_schedule.md R136). -/
def Port.wf (c : Config) : Port → Bool
  | .starting => true
  | .idle => true
  | .busy _ => true
  | .seeding true buf => decide (buf.length < c.ks)
  | .seeding false buf => decide (buf.length ≤ c.ks)
  | .seedEnded => true
  | .responding _ => true

/-- KP = PARITY(K) (R37.1). -/
abbrev State.parityConsistent (s : State) : Prop := s.KP = parity s.K

/-- BLK = ENCRYPT(CTR, K, KP, R) (R37.2). -/
abbrev State.blockConsistent (s : State) : Prop := s.BLK = encrypt s.CTR s.K s.KP s.cfg.rounds

/-- 0 ≤ CUR ≤ S (R37.3). -/
abbrev State.cursorInRange (s : State) : Prop := s.CUR.toNat ≤ s.cfg.S

/-- K[i] = 0 for i ≥ KS, and CTR[i] = 0 for i ≥ CS (R37.4). -/
abbrev State.unimplementedZero (s : State) : Prop :=
  (∀ i : Fin 4, s.cfg.ks ≤ i.val → s.K.get i = 0) ∧ (∀ i : Fin 4, s.cfg.cs ≤ i.val → s.CTR.get i = 0)

/-- The invariants of R37, and that the ports are in a state a SEEDS can be in. -/
abbrev State.Inv (s : State) : Prop :=
  s.parityConsistent ∧ s.blockConsistent ∧ s.cursorInRange ∧ s.unimplementedZero ∧ s.port.wf s.cfg = true

/-- A step is safe when it answers a next state: the block has no fault and no refusal (60_exceptions.md R300, R305). -/
def SafeStep (s : State) : Prop := ∃ t, step s = .next t

/-- A run of `k` steps is safe when each of them is. -/
def SafeRun : Nat → State → Prop
  | 0, _ => True
  | k + 1, s => ∃ t, step s = .next t ∧ SafeRun k t

end Sys2Proof.Machine
end

