-- ==== Sys2Proof/Certificates/Slice0/Obligations.lean ====
section
/-! DEFINITION. The statements for the provers. Numbers and bit positions are written out from the rules wherever a
definition of the model would only repeat itself. Unless a hypothesis says otherwise, a statement holds for every
configuration, every register value and every state of the ports and the outside agents. -/

open Sys2Proof Sys2Proof.Machine

-- ENCODING -------------------------------------------------------------------------------------------------------------

/-- Every instruction, with every index and operand, is what the decoder reads from its encoding (30_encoding.md R98,
R101, R105). -/
def Obligations.DecodeInvertsEncode : Prop := ∀ i : Instr, decode (encode i) = some i

/-- A word that decodes is the encoding of what it decodes to; the operand word is kept by the commands that read it
and has no effect on the others (R95, R101). -/
def Obligations.EncodeInvertsDecode : Prop :=
  ∀ (c : Command) (i : Instr), decode c = some i →
    (encode i).word = c.word ∧ (readsOperand i = true → (encode i).data = c.data) ∧
      (readsOperand i = false → ∀ d : Word, decode ⟨c.word, d⟩ = some i)

/-- R98: the table, each row with its match and mask, selects exactly the command the decoder gives; with R98's examples. -/
def Obligations.OpcodeMapSelectsTheDecodedCommand : Prop :=
  (∀ (c : Command) (r : OpcodeRow),
    r ∈ ([⟨.NOP, 0x00000000, 0xFFFFFFFF⟩, ⟨.NEXT, 0x00000001, 0xFFFFFFFF⟩, ⟨.DISCARD, 0x00000002, 0xFFFFFFFF⟩,
        ⟨.SEEDI, 0x00000003, 0xFFFFFFFF⟩, ⟨.SEEDS, 0x00000004, 0xFFFFFFFF⟩, ⟨.KEYWR, 0x00000005, 0xFFFFFCFF⟩,
        ⟨.KEYRD, 0x00000006, 0xFFFFFCFF⟩, ⟨.CTRWR, 0x00000007, 0xFFFFFCFF⟩, ⟨.CTRRD, 0x00000008, 0xFFFFFCFF⟩,
        ⟨.CURWR, 0x00000009, 0xFFFFFFFF⟩, ⟨.CURRD, 0x0000000A, 0xFFFFFFFF⟩, ⟨.BLKRD, 0x0000000B, 0xFFFFFCFF⟩,
        ⟨.INFORD, 0x0000000C, 0xFFFFFCFF⟩] : List OpcodeRow) →
      (c.word &&& r.mask = r.pattern ↔ ∃ i, decode c = some i ∧ i.mnemonic = r.name)) ∧
    (∀ d : Word, decode ⟨0x00000001, d⟩ = some .next) ∧ (∀ d : Word, decode ⟨0x00000305, d⟩ = some (.keywr 3 d)) ∧
    ∀ d : Word, decode ⟨0x0000020C, d⟩ = some (.inford 2)

/-- R101: exactly 7 + 6·4 = 31 command words decode, whatever the operand. -/
def Obligations.ExactlyThirtyOneWordsDecode : Prop :=
  let words : List (BitVec 32) := [0x0, 0x1, 0x2, 0x3, 0x4, 0x9, 0xA] ++
    ([0x5, 0x6, 0x7, 0x8, 0xB, 0xC] : List (BitVec 32)).flatMap fun o => [o, o + 0x100, o + 0x200, o + 0x300]
  words.length = 31 ∧ words.Nodup ∧ ∀ c : Command, (decode c).isSome = true ↔ c.word ∈ words

/-- Words written out from R94 and R98, with the rows of T-DEC (95_test_vectors.md). -/
def Obligations.WrittenOutWordsDecode : Prop :=
  ∀ d : Word,
    decode ⟨0b00000000000000000000000000000000#32, d⟩ = some .nop ∧
      decode ⟨0b00000000000000000000000000000001#32, d⟩ = some .next ∧
      decode ⟨0b00000000000000000000000000000010#32, d⟩ = some (.discard d) ∧
      decode ⟨0b00000000000000000000001100000101#32, d⟩ = some (.keywr 3 d) ∧
      decode ⟨0b00000000000000000000000100001000#32, d⟩ = some (.ctrrd 1) ∧
      decode ⟨0b00000000000000000000001000001100#32, d⟩ = some (.inford 2) ∧
      decode ⟨0b00000000000000000000001100001011#32, d⟩ = some (.blkrd 3) ∧
      decode ⟨0x00000101, d⟩ = none ∧ decode ⟨0x0000000D, d⟩ = none ∧ decode ⟨0x000000FF, d⟩ = none ∧
      decode ⟨0x00000401, d⟩ = none ∧ decode ⟨0x80000001, d⟩ = none

/-- R99, R100: a reserved opcode, a reserved bit set, or an index where the command uses none is answered with
ILLEGAL_COMMAND (code 2) and changes no state. -/
def Obligations.ReservedWordsAreRejected : Prop :=
  ∀ (s : State) (c : Command), s.env.rst = false → s.port = .busy c →
    (0x0D ≤ c.word.toNat % 256 ∨ c.word.toNat / 1024 ≠ 0 ∨
      (c.word.toNat / 256 % 4 ≠ 0 ∧ c.word.toNat % 256 ∈ [0x00, 0x01, 0x02, 0x03, 0x04, 0x09, 0x0A])) →
    step s = .next { s with port := .responding ⟨.illegalCommand, 0⟩ } ∧ Status.code .illegalCommand = 2

/-- A step of a block that has latched a command which decodes, with no reset asserted, is that command's meaning. -/
def Obligations.StepRunsTheLatchedCommand : Prop :=
  ∀ (s : State) (c : Command) (i : Instr), s.env.rst = false → s.port = .busy c → decode c = some i → step s = exec i s

-- COMMANDS -------------------------------------------------------------------------------------------------------------

/-- NOP (44_engine.md R257): a response with status 0 and data 0, and nothing else changes. -/
def Obligations.NopOnlyResponds : Prop :=
  ∀ s : State, (∀ d : Word, decode ⟨0x00000000, d⟩ = some .nop) ∧
    exec .nop s = .next { s with port := .responding ⟨.ok, 0⟩ } ∧ Status.code .ok = 0

/-- NEXT (R250): sample CUR of the block and CUR + 1; in the exhausted state the counter moves on first, the new block
is computed, its sample 0 is returned and CUR is 1. Nothing else changes. -/
def Obligations.NextReturnsTheNextSample : Prop :=
  ∀ s : State, (∀ d : Word, decode ⟨0x00000001, d⟩ = some .next) ∧
    (s.CUR.toNat < s.cfg.S →
      exec .next s = .next { s with
        CUR := s.CUR + 1
        port := .responding ⟨.ok, (extract s.cfg.W s.BLK s.CUR.toNat).setWidth 64⟩ }) ∧
    (s.cfg.S ≤ s.CUR.toNat →
      let ctr := inc s.cfg s.CTR
      let blk := encrypt (ctr.hardwire s.cfg.cs) (s.K.hardwire s.cfg.ks) s.KP s.cfg.rounds
      exec .next s = .next { s with
        CTR := ctr
        BLK := blk
        CUR := 1
        port := .responding ⟨.ok, (extract s.cfg.W blk 0).setWidth 64⟩ })

/-- DISCARD n (R251) in plain integers: with P = CUR + n, the counter moves on by (P − 1) div S blocks modulo its range,
the cursor becomes (P − 1) mod S + 1, the block is recomputed iff the counter moves; n = 0 changes nothing. -/
def Obligations.DiscardMovesCounterAndCursor : Prop :=
  ∀ (s : State) (n : Word), (∀ d : Word, decode ⟨0x00000002, d⟩ = some (.discard d)) ∧
    (n = 0 → exec (.discard n) s = .next { s with port := .responding ⟨.ok, 0⟩ }) ∧
    (n ≠ 0 →
      let q := (s.CUR.toNat + n.toNat - 1) / s.cfg.S
      ∃ t, exec (.discard n) s = .next t ∧ t.port = .responding ⟨.ok, 0⟩ ∧
        t.CUR.toNat = (s.CUR.toNat + n.toNat - 1) % s.cfg.S + 1 ∧
        t.ctrVal = (s.ctrVal + q) % 2 ^ (64 * s.cfg.cs) ∧
        (∀ i : Fin 4, s.cfg.cs ≤ i.val → t.CTR.get i = s.CTR.get i) ∧
        t.BLK = (if q = 0 then s.BLK else encrypt t.ctrWords t.keyWords t.KP t.cfg.rounds) ∧
        t.K = s.K ∧ t.KP = s.KP ∧ t.cfg = s.cfg ∧ t.env = s.env)

/-- R253: DISCARD n leaves the same K, KP, CTR, BLK and CUR as n NEXT commands in a row, from every state with the cursor
in range and for every 64-bit n. The range is invariant 3 of R37, which StepKeepsTheInvariants states is kept. -/
def Obligations.DiscardEqualsRepeatedNext : Prop :=
  ∀ (s : State) (n : Word), s.cursorInRange →
    ∃ t u, exec (.discard n) s = .next t ∧ execAll (List.replicate n.toNat .next) s = .next u ∧ t.regs = u.regs

/-- SEEDI v (40_key_schedule.md R135): the seed in the first key slot if there is one, the other key words zero, and the
key-change tail (R132). SEEDI 0 leaves the registers of the reset state. -/
def Obligations.SeediLoadsTheSeed : Prop :=
  ∀ (s : State) (v : Word), (∀ d : Word, decode ⟨0x00000003, d⟩ = some (.seedi d)) ∧
    ∃ t, exec (.seedi v) s = .next t ∧ t.port = .responding ⟨.ok, 0⟩ ∧
      t.K = ⟨if 1 ≤ s.cfg.ks then v else 0, 0, 0, 0⟩ ∧
      t.KP = 0x1BD11BDAA9FC1A22 ^^^ t.K.get 0 ^^^ t.K.get 1 ^^^ t.K.get 2 ^^^ t.K.get 3 ∧
      t.CTR = Quad.zero ∧ t.CUR = 0 ∧ t.BLK = encrypt Quad.zero t.K t.KP s.cfg.rounds ∧
      t.cfg = s.cfg ∧ t.env = s.env ∧ (v = 0 → t.regs = (State.resetOf s.cfg).regs)

/-- SEEDS (R136) when the seed source gives KS words: they fill key slots 0, 1, … in order and are consumed, no further
word is asked for, and the key-change tail runs. KS = 0 asks for none. -/
def Obligations.SeedsLoadsTheKeyFromTheSource : Prop :=
  ∀ (s : State) (ws : List Word) (rest : List SeedAnswer),
    (∀ d : Word, decode ⟨0x00000004, d⟩ = some .seeds) ∧
    (ws.length = s.cfg.ks → s.env.seeds = ws.map .word ++ rest →
      ∃ t, exec .seeds s = .next t ∧ t.port = .responding ⟨.ok, 0⟩ ∧
        (∀ i : Fin 4, t.K.get i = ws.getD i.val 0) ∧
        t.KP = 0x1BD11BDAA9FC1A22 ^^^ t.K.get 0 ^^^ t.K.get 1 ^^^ t.K.get 2 ^^^ t.K.get 3 ∧
        t.CTR = Quad.zero ∧ t.CUR = 0 ∧ t.BLK = encrypt Quad.zero t.K t.KP s.cfg.rounds ∧
        t.cfg = s.cfg ∧ t.env = { s.env with seeds := rest })

/-- SEEDS (R136, R79) fails precisely when the source answers EOS before it has given KS words: then SEED_EXHAUSTED
(code 1), no register changes, and the answers up to EOS are consumed; and it fails in no other case. That the EOS itself is
consumed is the model's reading (log entry 7). -/
def Obligations.SeedsFailsWhenTheSourceIsExhausted : Prop :=
  ∀ s : State,
    (∀ (ws : List Word) (rest : List SeedAnswer),
      ws.length < s.cfg.ks → s.env.seeds = ws.map .word ++ .eos :: rest →
      exec .seeds s = .next { s with port := .responding ⟨.seedExhausted, 0⟩, env := { s.env with seeds := rest } } ∧
        Status.code .seedExhausted = 1) ∧
    ∀ (t : State) (st : Status) (d : Word),
      exec .seeds s = .next t → t.port = .responding ⟨st, d⟩ → st ≠ .ok →
      st = .seedExhausted ∧
        ∃ (ws : List Word) (rest : List SeedAnswer), ws.length < s.cfg.ks ∧ s.env.seeds = ws.map .word ++ .eos :: rest

/-- SEEDS whose source does not answer waits with a request outstanding and no register changed (70_reset_and_hazards.md
R347), and when more answers come it goes on exactly as if they had been there. That the wait is a step to the same state,
where the spec takes no step until the source acts, is the model's choice (log entry 4). -/
def Obligations.SeedsWaitsForTheSource : Prop :=
  ∀ (s : State) (ws : List Word) (more : List SeedAnswer),
    ws.length < s.cfg.ks → s.env.seeds = ws.map .word →
    let t : State := { s with port := .seeding true ws, env := { s.env with seeds := [] } }
    exec .seeds s = .next t ∧
      (s.env.rst = false →
        step t = .next t ∧
        step { t with env := { t.env with seeds := more } } =
          exec .seeds { s with env := { s.env with seeds := ws.map .word ++ more } })

/-- KEYWR (R133): an implemented word is written, the other key words keep their values, and the key-change tail (R132)
runs, whatever the value; ILLEGAL_INDEX (code 3) and no change for IDX ≥ KS. -/
def Obligations.KeywrWritesOneWordAndRunsTheTail : Prop :=
  ∀ (s : State) (i : Fin 4) (v : Word),
    (∀ d : Word, decode ⟨0x00000005 ||| (BitVec.ofNat 32 i.val <<< 8), d⟩ = some (.keywr i d)) ∧
    (i.val < s.cfg.ks →
      ∃ t, exec (.keywr i v) s = .next t ∧ t.port = .responding ⟨.ok, 0⟩ ∧
        (∀ j : Fin 4, t.K.get j = if j = i then v else s.K.get j) ∧
        t.KP = 0x1BD11BDAA9FC1A22 ^^^ t.keyWords.get 0 ^^^ t.keyWords.get 1 ^^^ t.keyWords.get 2 ^^^ t.keyWords.get 3 ∧
        t.CTR = Quad.zero ∧ t.CUR = 0 ∧ t.BLK = encrypt Quad.zero t.keyWords t.KP s.cfg.rounds ∧
        t.cfg = s.cfg ∧ t.env = s.env) ∧
    (s.cfg.ks ≤ i.val →
      exec (.keywr i v) s = .next { s with port := .responding ⟨.illegalIndex, 0⟩ } ∧ Status.code .illegalIndex = 3)

/-- KEYRD (R134): the key word, 0 with status OK for IDX ≥ KS; no state changes. -/
def Obligations.KeyrdReturnsTheKeyWord : Prop :=
  ∀ (s : State) (i : Fin 4),
    (∀ d : Word, decode ⟨0x00000006 ||| (BitVec.ofNat 32 i.val <<< 8), d⟩ = some (.keyrd i)) ∧
    exec (.keyrd i) s = .next { s with port := .responding ⟨.ok, if i.val < s.cfg.ks then s.K.get i else 0⟩ }

/-- CTRWR (41_counter.md R164): an implemented word is written, CUR is cleared, the block is recomputed, key and KP are
not touched; ILLEGAL_INDEX and no change for IDX ≥ CS. -/
def Obligations.CtrwrWritesOneWordAndRecomputesTheBlock : Prop :=
  ∀ (s : State) (i : Fin 4) (v : Word),
    (∀ d : Word, decode ⟨0x00000007 ||| (BitVec.ofNat 32 i.val <<< 8), d⟩ = some (.ctrwr i d)) ∧
    (i.val < s.cfg.cs →
      ∃ t, exec (.ctrwr i v) s = .next t ∧ t.port = .responding ⟨.ok, 0⟩ ∧
        (∀ j : Fin 4, t.CTR.get j = if j = i then v else s.CTR.get j) ∧ t.CUR = 0 ∧
        t.BLK = encrypt t.ctrWords s.keyWords s.KP s.cfg.rounds ∧
        t.K = s.K ∧ t.KP = s.KP ∧ t.cfg = s.cfg ∧ t.env = s.env) ∧
    (s.cfg.cs ≤ i.val → exec (.ctrwr i v) s = .next { s with port := .responding ⟨.illegalIndex, 0⟩ })

/-- CTRRD (R165): the counter word, 0 with status OK for IDX ≥ CS; no state changes. -/
def Obligations.CtrrdReturnsTheCounterWord : Prop :=
  ∀ (s : State) (i : Fin 4),
    (∀ d : Word, decode ⟨0x00000008 ||| (BitVec.ofNat 32 i.val <<< 8), d⟩ = some (.ctrrd i)) ∧
    exec (.ctrrd i) s = .next { s with port := .responding ⟨.ok, if i.val < s.cfg.cs then s.CTR.get i else 0⟩ }

/-- CURWR (44_engine.md R254): a value up to S becomes the cursor and nothing else changes; above S, compared in full 64
bits, ILLEGAL_OPERAND (code 4) and no change. -/
def Obligations.CurwrSetsTheCursor : Prop :=
  ∀ (s : State) (p : Word), (∀ d : Word, decode ⟨0x00000009, d⟩ = some (.curwr d)) ∧
    (p.toNat ≤ s.cfg.S →
      exec (.curwr p) s = .next { s with CUR := BitVec.ofNat 6 p.toNat, port := .responding ⟨.ok, 0⟩ }) ∧
    (s.cfg.S < p.toNat →
      exec (.curwr p) s = .next { s with port := .responding ⟨.illegalOperand, 0⟩ } ∧ Status.code .illegalOperand = 4)

/-- CURRD (R255): the cursor zero-extended; no state changes. -/
def Obligations.CurrdReturnsTheCursor : Prop :=
  ∀ s : State, (∀ d : Word, decode ⟨0x0000000A, d⟩ = some .currd) ∧
    exec .currd s = .next { s with port := .responding ⟨.ok, BitVec.ofNat 64 s.CUR.toNat⟩ }

/-- BLKRD (42_mixing_network.md R200): the block word; no state changes. -/
def Obligations.BlkrdReturnsTheBlockWord : Prop :=
  ∀ (s : State) (i : Fin 4),
    (∀ d : Word, decode ⟨0x0000000B ||| (BitVec.ofNat 32 i.val <<< 8), d⟩ = some (.blkrd i)) ∧
    exec (.blkrd i) s =
      .next { s with port := .responding ⟨.ok, ([s.BLK.w0, s.BLK.w1, s.BLK.w2, s.BLK.w3] : List Word).getD i.val 0⟩ }

/-- INFORD (44_engine.md R256): INFO_MIN, INFO_MAX, INFO_CONFIG (field by field, the reserved fields 0) and INFO_PARITY;
no state changes. -/
def Obligations.InfordReturnsTheInformationRegister : Prop :=
  ∀ (s : State) (i : Fin 4),
    (∀ d : Word, decode ⟨0x0000000C ||| (BitVec.ofNat 32 i.val <<< 8), d⟩ = some (.inford i)) ∧
    ∃ d : Word, exec (.inford i) s = .next { s with port := .responding ⟨.ok, d⟩ } ∧
      (i = 0 → d = 0) ∧ (i = 1 → d.toNat = 2 ^ s.cfg.W.bits - 1) ∧
      (i = 2 → d.toNat = s.cfg.R.toNat * 2 ^ 16 + s.cfg.cs * 2 ^ 11 + s.cfg.ks * 2 ^ 8 + s.cfg.W.bits) ∧
      (i = 3 → d = s.KP)

-- MICRO-OPERATIONS -----------------------------------------------------------------------------------------------------

/-- INC adds 1 to the counter's integer modulo 2^(64·CS) and leaves unimplemented words alone (41_counter.md R160, R163). -/
def Obligations.IncAddsOneModuloTheRange : Prop :=
  ∀ (c : Config) (q : Quad), (inc c q).val c.cs = (q.val c.cs + 1) % 2 ^ (64 * c.cs) ∧
    ∀ i : Fin 4, c.cs ≤ i.val → (inc c q).get i = q.get i

/-- ADVANCE(delta) adds delta modulo 2^(64·CS), the carry rippling through every word that wraps (R160, R162, R163;
90_conflicts.md C3). -/
def Obligations.AdvanceAddsDeltaModuloTheRange : Prop :=
  ∀ (c : Config) (d : Word) (q : Quad), (advance c d q).val c.cs = (q.val c.cs + d.toNat) % 2 ^ (64 * c.cs) ∧
    ∀ i : Fin 4, c.cs ≤ i.val → (advance c d q).get i = q.get i

/-- MIX (42_mixing_network.md R190, R191) is the add, the 64-bit left rotation and the exclusive-or, and is undone by the
inverse R190 gives. -/
def Obligations.MixIsAddRotateXorAndInvertible : Prop :=
  ∀ (a b : Word) (r : Nat), r < 64 →
    let m := mix a b r
    m.1 = a + b ∧ m.2 = b.rotateLeft r ^^^ (a + b) ∧
      (m.2 ^^^ m.1).rotateRight r = b ∧ m.1 - (m.2 ^^^ m.1).rotateRight r = a

/-- A round applies two MIX calls with the amounts of the rotation table, on words (0,1) and (2,3) in an even round and on
(0,3) and (2,1) in an odd one (R192, R193; the values are the spec's general knowledge, log entry 12). -/
def Obligations.RoundMixesThePairsOfItsParity : Prop :=
  ∀ (x : Quad) (r : Nat),
    let ra := ([14, 52, 23, 5, 25, 46, 58, 32] : List Nat).getD (r % 8) 0
    let rb := ([16, 57, 40, 37, 33, 12, 22, 32] : List Nat).getD (r % 8) 0
    (r % 2 = 0 →
      round x r = ⟨x.w0 + x.w1, x.w1.rotateLeft ra ^^^ (x.w0 + x.w1), x.w2 + x.w3, x.w3.rotateLeft rb ^^^ (x.w2 + x.w3)⟩) ∧
    (r % 2 = 1 →
      round x r = ⟨x.w0 + x.w3, x.w1.rotateLeft rb ^^^ (x.w2 + x.w1), x.w2 + x.w1, x.w3.rotateLeft ra ^^^ (x.w0 + x.w3)⟩)

/-- Injection s adds extended-key word (s + i) mod 5 to word i and s to word 3 (R194, R195; general knowledge, log entry
12). -/
def Obligations.InjectAddsTheRotatedExtendedKey : Prop :=
  ∀ (k x : Quad) (kp : Word) (s : Nat) (i : Fin 4),
    (inject k kp x s).get i =
      x.get i + ([k.w0, k.w1, k.w2, k.w3, kp] : List Word).getD ((s + i.val) % 5) 0 +
        (if i = 3 then BitVec.ofNat 64 s else 0)

/-- ENCRYPT (R196, R197): no round is the initial injection alone; each further round is followed by an injection iff it
completes a group of four, so a trailing partial group has none. That the initial injection adds the key words is the spec's
general knowledge, which the known answers do not check (R196, 92_eei_decisions.md D20, log entry 12). -/
def Obligations.EncryptInjectsAfterEveryFourthRoundOnly : Prop :=
  ∀ (ctr k : Quad) (kp : Word) (n : Nat),
    encrypt ctr k kp 0 = ⟨ctr.w0 + k.w0, ctr.w1 + k.w1, ctr.w2 + k.w2, ctr.w3 + k.w3⟩ ∧
      ((n + 1) % 4 = 0 →
        encrypt ctr k kp (n + 1) = inject k kp (round (encrypt ctr k kp n) n) ((n + 1) / 4)) ∧
      ((n + 1) % 4 ≠ 0 → encrypt ctr k kp (n + 1) = round (encrypt ctr k kp n) n)

/-- The source's two known answers for a zero key and counter, R = 20 and R = 13 (R197, T-KAT-20-ZERO, T-KAT-13-ZERO). -/
def Obligations.EncryptGivesTheKnownAnswers : Prop :=
  encrypt Quad.zero Quad.zero 0x1BD11BDAA9FC1A22 20 =
      ⟨0x09218ebde6c85537, 0x55941f5266d86105, 0x4bd25e16282434dc, 0xee29ec846bd2e40b⟩ ∧
    encrypt Quad.zero Quad.zero 0x1BD11BDAA9FC1A22 13 =
      ⟨0x4071fabee1dc8e05, 0x02ed3113695c9c62, 0x397311b5b89f9d49, 0xe21292c3258024bc⟩

/-- R198: for a fixed key and any number of rounds, ENCRYPT is a bijection on four-word counters. -/
def Obligations.EncryptIsABijectionOfCounters : Prop :=
  ∀ (k : Quad) (kp : Word) (n : Nat), Function.Bijective fun ctr : Quad => encrypt ctr k kp n

/-- EXTRACT (43_output_extractor.md R230, 20_memory.md R71): bit j of sample n is bit n·W + j of the block, word 0 the
least significant; and it is the field R231 selects within one word. -/
def Obligations.ExtractSelectsTheFieldOfOneWord : Prop :=
  ∀ (w : Width) (blk : Quad) (n j : Nat), n < 256 / w.bits → j < w.bits →
    (extract w blk n).getLsbD j =
        (([blk.w0, blk.w1, blk.w2, blk.w3] : List Word).getD ((n * w.bits + j) / 64) 0).getLsbD ((n * w.bits + j) % 64) ∧
      extract w blk n =
        ((([blk.w0, blk.w1, blk.w2, blk.w3] : List Word).getD (n * w.bits / 64) 0) >>> (n * w.bits % 64)).setWidth w.bits

/-- R72: a 64-bit sample is the little-endian regrouping of the narrower samples of the same key and counter, for every
width. -/
def Obligations.NarrowSamplesRegroupIntoWideOnes : Prop :=
  ∀ (s : State) (w : Width) (j : Nat),
    let m := 64 / w.bits
    (streamSample { s with cfg := { s.cfg with W := .w64 } } j).toNat =
      ((List.range m).map fun i =>
        (streamSample { s with cfg := { s.cfg with W := w } } (m * j + i)).toNat * 2 ^ (w.bits * i)).sum

/-- R232: every sample NEXT returns is at most 2^W − 1, and INFORD 0 and 1 read the two bounds. -/
def Obligations.SamplesStayInTheirRange : Prop :=
  ∀ s : State,
    (∃ t d, exec .next s = .next t ∧ t.port = .responding ⟨.ok, d⟩ ∧ d.toNat ≤ 2 ^ s.cfg.W.bits - 1) ∧
      (∃ t, exec (.inford 0) s = .next t ∧ t.port = .responding ⟨.ok, 0⟩) ∧
      ∃ t d, exec (.inford 1) s = .next t ∧ t.port = .responding ⟨.ok, d⟩ ∧ d.toNat = 2 ^ s.cfg.W.bits - 1

/-- R233: from any state that meets the invariants with cursor 0, the responses to k NEXT commands are samples 0 to k − 1 of
the stream, across any number of blocks and counter wraps. -/
def Obligations.NextYieldsTheSampleStream : Prop :=
  ∀ (s : State) (k : Nat), s.Inv → s.CUR = 0 →
    (issueAll (List.replicate k (encode .next)) s).1 = (List.range k).map fun j => ⟨.ok, streamSample s j⟩

/-- R45: for a fixed key the samples NEXT returns repeat after 2^(64·CS) · S = 2^(64·CS + log2 S) of them, from every state
that meets the invariants; so many NEXT commands restore every register when 1 ≤ CUR ≤ S (from CUR = 0 they end in the
exhausted state of the block before); and the numbered stream of R233 repeats likewise. -/
def Obligations.SampleStreamIsPeriodic : Prop :=
  ∀ s : State,
    let n := 2 ^ (64 * s.cfg.cs) * (256 / s.cfg.W.bits)
    n = 2 ^ (64 * s.cfg.cs + s.cfg.log2S) ∧
      (s.Inv → ∀ k : Nat,
        let answers := (issueAll (List.replicate (k + n + 1) (encode .next)) s).1
        answers.length = k + n + 1 ∧ answers[k + n]? = answers[k]?) ∧
      (s.Inv → 1 ≤ s.CUR.toNat → ∃ t, execAll (List.replicate n .next) s = .next t ∧ t.regs = s.regs) ∧
      ∀ k : Nat, streamSample s (k + n) = streamSample s k

/-- R44: NEXT moves the stream position by 1 and DISCARD n by n, modulo the period, from every state with the cursor in
range. -/
def Obligations.CommandsMoveTheStreamPosition : Prop :=
  ∀ (s : State) (n : Word), s.cursorInRange →
    (∃ t, exec .next s = .next t ∧ streamPos t = (streamPos s + 1) % period s.cfg) ∧
      ∃ t, exec (.discard n) s = .next t ∧ streamPos t = (streamPos s + n.toNat) % period s.cfg

-- THE WHOLE MACHINE ----------------------------------------------------------------------------------------------------

/-- R43: the reset value of every register and port, for every configuration; and it is the state SEEDI 0 leaves. What
`State.reset` chooses beyond R43 (its configuration, the outside agents) is log entries 1 and 2 and is not stated here. -/
def Obligations.ResetStateHasTheStatedValues : Prop :=
  ∀ c : Config,
    let s := State.resetOf c
    s.K = ⟨0, 0, 0, 0⟩ ∧ s.KP = 0x1BD11BDAA9FC1A22 ∧ s.CTR = ⟨0, 0, 0, 0⟩ ∧ s.CUR = 0 ∧
      s.BLK = encrypt ⟨0, 0, 0, 0⟩ ⟨0, 0, 0, 0⟩ 0x1BD11BDAA9FC1A22 c.rounds ∧
      (c.R = 20 → s.BLK = ⟨0x09218ebde6c85537, 0x55941f5266d86105, 0x4bd25e16282434dc, 0xee29ec846bd2e40b⟩) ∧
      (c.R = 13 → s.BLK = ⟨0x4071fabee1dc8e05, 0x02ed3113695c9c62, 0x397311b5b89f9d49, 0xe21292c3258024bc⟩) ∧
      infoRegister c s.KP 0 = 0 ∧ (infoRegister c s.KP 1).toNat = 2 ^ c.W.bits - 1 ∧
      (infoRegister c s.KP 2).toNat = c.R.toNat * 2 ^ 16 + c.cs * 2 ^ 11 + c.ks * 2 ^ 8 + c.W.bits ∧
      infoRegister c s.KP 3 = 0x1BD11BDAA9FC1A22 ∧
      pinsOut false s = ⟨true, none, false⟩ ∧ s.cfg = c ∧
      ∃ t, exec (.seedi 0) s = .next t ∧ t.regs = s.regs

/-- The invariants of R37 hold at reset, for every configuration and for the model's own. -/
def Obligations.ResetMeetsTheInvariants : Prop := (∀ c : Config, (State.resetOf c).Inv) ∧ State.reset.Inv

/-- R37: every step from a state that meets the invariants ends in one that does. -/
def Obligations.StepKeepsTheInvariants : Prop := ∀ s t : State, s.Inv → step s = .next t → t.Inv

/-- R37 at the pins: so does every clock edge, whatever the pins and the latency. -/
def Obligations.ClockEdgeKeepsTheInvariants : Prop := ∀ (s : State) (e : Edge), s.Inv → (clockEdge e s).Inv

/-- R343: no command and no reset changes the configuration, at transaction level or at the pins. -/
def Obligations.ConfigurationNeverChanges : Prop :=
  ∀ s : State, (∀ t, step s = .next t → t.cfg = s.cfg) ∧ ∀ e : Edge, (clockEdge e s).cfg = s.cfg

/-- R340 at the pins: at an edge with `rst` = 1 every register takes its reset value and a command in progress is
abandoned without effect or response, `cmd_ready`, `rsp_valid` and `seed_req` are 0; when `rst` is 0 again the block becomes
idle and ready once the work is done. The seed answers already taken stay taken. That the work may be done at the reset edge
itself is the model's reading of "a finite delay" (log entry 11). -/
def Obligations.ResetEdgeAbandonsTheCommand : Prop :=
  ∀ (s : State) (e f : Edge), e.pins.rst = true → f.pins.rst = false →
    let t := clockEdge e s
    t.regs = (State.resetOf s.cfg).regs ∧ t.cfg = s.cfg ∧ t.env = s.env ∧ pinsOut true s = ⟨false, none, false⟩ ∧
      (e.finish = true → t.port = .idle ∧ pinsOut false t = ⟨true, none, false⟩) ∧
      (e.finish = false →
        t.port = .starting ∧ pinsOut false t = ⟨false, none, false⟩ ∧ (f.finish = false → clockEdge f t = t) ∧
        (f.finish = true → clockEdge f t = { t with port := .idle } ∧ pinsOut false (clockEdge f t) = ⟨true, none, false⟩))

/-- Reset at transaction level: the step that takes it leaves the reset registers and abandons the command in progress; the
next step makes the block idle. That HOST holds `rst` for one step is the model's choice (log entry 8). -/
def Obligations.ResetStepAbandonsTheCommand : Prop :=
  ∀ s : State, s.env.rst = true →
    ∃ t u, step s = .next t ∧ step t = .next u ∧ t.regs = (State.resetOf s.cfg).regs ∧
      u.regs = (State.resetOf s.cfg).regs ∧ t.port = .starting ∧ u.port = .idle ∧ u.cfg = s.cfg ∧
      u.env = { s.env with rst := false }

/-- 60_exceptions.md R300: a command that fails leaves K, KP, CTR, BLK and CUR as they were, responds with data 0, and
leaves the block ready for the next command; its only trace is the seed answers it consumed. -/
def Obligations.FailingCommandChangesNoRegister : Prop :=
  ∀ (s t : State) (c : Command) (st : Status) (d : Word),
    runLatched c s = .next t → t.port = .responding ⟨st, d⟩ → st ≠ .ok →
    t.regs = s.regs ∧ d = 0 ∧ t.cfg = s.cfg ∧ t.env = { s.env with seeds := t.env.seeds } ∧
      t.env.seeds <:+ s.env.seeds ∧
      ∃ u, step { t with env := { t.env with rst := false, rspReady := true } } = .next u ∧ u.port = .idle ∧
        u.regs = s.regs

/-- R301: each error status has its code and exactly the causes of the table, so that NEXT, DISCARD, SEEDI, the reads and
NOP never fail; an error records nothing but its status. -/
def Obligations.ErrorStatusesHaveTheStatedCauses : Prop :=
  ∀ (s t : State) (c : Command) (st : Status) (d : Word),
    runLatched c s = .next t → t.port = .responding ⟨st, d⟩ →
    (st = .illegalCommand ↔ decode c = none) ∧
      (st = .illegalIndex ↔
        (∃ i v, decode c = some (.keywr i v) ∧ s.cfg.ks ≤ i.val) ∨ ∃ i v, decode c = some (.ctrwr i v) ∧ s.cfg.cs ≤ i.val) ∧
      (st = .illegalOperand ↔ ∃ p, decode c = some (.curwr p) ∧ s.cfg.S < p.toNat) ∧
      (st = .seedExhausted ↔
        decode c = some .seeds ∧
          ∃ (ws : List Word) (rest : List SeedAnswer), ws.length < s.cfg.ks ∧ s.env.seeds = ws.map .word ++ .eos :: rest) ∧
      (Status.code .seedExhausted = 1 ∧ Status.code .illegalCommand = 2 ∧ Status.code .illegalIndex = 3 ∧
        Status.code .illegalOperand = 4) ∧
      (st ≠ .ok → t.regs = s.regs ∧ d = 0)

/-- Every step answers a next state: an error is a response (R300), the block has no trap (R305), and a wait for HOST or SEED
is no fault (R347). That a waiting block takes a step at all, to the same state, where the spec takes none until the agent
acts, is the model's choice (log entry 4). -/
def Obligations.EveryStepAnswersANextState : Prop := ∀ s : State, ∃ t, step s = .next t

/-- R38: two blocks that compare equal and are given the same seed answers return the same response to every command
sequence, and compare equal after it. -/
def Obligations.EqualBlocksRespondAlike : Prop :=
  ∀ (s t : State) (cs : List Command), s.Inv → t.Inv → engineEq s t → s.env.seeds = t.env.seeds →
    (issueAll cs s).1 = (issueAll cs t).1 ∧ engineEq (issueAll cs s).2 (issueAll cs t).2

/-- R259: SERIALIZE changes no register, and DESERIALIZE of the words it returns, on any block of the same configuration in
any state that meets the invariants, gives a block equal to the serialized one, with the same KP and BLK. -/
def Obligations.DeserializeRestoresTheSerializedState : Prop :=
  ∀ s t : State, s.Inv → t.Inv → t.cfg = s.cfg →
    let out := issueAll (serializeCommands s.cfg) s
    let back := (issueAll (deserializeCommands s.cfg (out.1.map (·.data))) t).2
    out.2.regs = s.regs ∧ out.1.length = s.cfg.ks + s.cfg.cs + 1 ∧ engineEq back s ∧ back.regs = s.regs

/-- An idle block that is offered a command answers it, and the host has exactly its one response (20_memory.md R76,
30_encoding.md R92). That this takes three steps, acceptance, execution and delivery, is the model's choice (log entries 4
and 6). -/
def Obligations.ThreeStepsAreOneTransaction : Prop :=
  ∀ (s t : State) (c : Command) (cs : List Command) (r : Response),
    s.port = .idle → s.env.rst = false → s.env.rspReady = true → s.env.cmds = c :: cs →
    issue c { s with env := { s.env with cmds := cs } } = some (r, t) →
    Sys2Proof.core.run 3 s = .next { t with env := { t.env with taken := s.env.taken ++ [r] } }

/-- A block that waits for HOST or SEED, with its response not taken or its seed request not answered (R347), or idle with no
command offered, is left as it is by a step. That such a wait is a step, to the same state, is the model's choice (log entry
4); R347 names no step and not the idle wait. -/
def Obligations.WaitingStepsChangeNothing : Prop :=
  ∀ s : State, s.env.rst = false →
    (s.port = .idle → s.env.cmds = [] → step s = .next s) ∧
      (∀ r, s.port = .responding r → s.env.rspReady = false → step s = .next s) ∧
      ∀ buf, s.port = .seeding true buf → s.env.seeds = [] → step s = .next s

-- PINS -----------------------------------------------------------------------------------------------------------------

/-- 30_encoding.md R91: a command is accepted at exactly the edges with `cmd_valid` and `cmd_ready` both 1, and the word and
operand on the port are latched; an edge of a ready block with `cmd_valid` = 0 changes nothing; at an edge with `cmd_ready`
= 0 the command pins have no effect. That the work of the latched command may end at the accepting edge itself, then as at
any later edge, is how the model admits the least latency of R345 (log entry 11). -/
def Obligations.CommandsAreLatchedOnlyWhenReady : Prop :=
  ∀ (s : State) (e : Edge),
    ((pinsOut e.pins.rst s).cmdReady = true → e.pins.cmdValid = true →
      let latched : State := { s with port := .busy ⟨e.pins.cmdWord, e.pins.cmdData⟩ }
      (e.finish = false → clockEdge e s = latched) ∧ (e.finish = true → clockEdge e s = clockEdge e latched)) ∧
    ((pinsOut e.pins.rst s).cmdReady = true → e.pins.cmdValid = false → clockEdge e s = s) ∧
    ((pinsOut e.pins.rst s).cmdReady = false →
      ∀ (v : Bool) (w : BitVec 32) (d : Word),
        clockEdge { e with pins := { e.pins with cmdValid := v, cmdWord := w, cmdData := d } } s = clockEdge e s)

/-- R92: an offered response is held, with the same status and data, until an edge with `rsp_ready` = 1; then the block is
idle. R93: `cmd_ready` is 1 only when the block is idle. -/
def Obligations.ResponseIsHeldUntilTaken : Prop :=
  ∀ (s : State) (r : Response) (e : Edge),
    ((pinsOut false s).cmdReady = true ↔ s.port = .idle) ∧
      (s.port = .responding r →
        pinsOut false s = ⟨false, some (r.status.code, r.data), false⟩ ∧
        (e.pins.rst = false → e.pins.rspReady = false → clockEdge e s = s) ∧
        (e.pins.rst = false → e.pins.rspReady = true → clockEdge e s = { s with port := .idle }))

/-- R108: a seed request is held until it is acknowledged and falls at the edge that answers it; a word is kept in order; an
EOS is followed by no further request, only by the SEED_EXHAUSTED response; KS words are followed by no further request. That
the response may come at the edge of the last answer is how the model admits the least latency (log entry 11). -/
def Obligations.SeedPortFollowsItsProtocol : Prop :=
  ∀ (s : State) (buf : List Word) (e f : Edge), e.pins.rst = false → f.pins.rst = false →
    (s.port = .seeding true buf →
      (pinsOut false s).seedReq = true ∧
      (e.pins.seedAck = false → clockEdge e s = s) ∧
      (e.pins.seedAck = true →
        (pinsOut false (clockEdge e s)).seedReq = false ∧
        (e.pins.seedEos = false →
          let kept : State := { s with port := .seeding false (buf ++ [e.pins.seedData]) }
          (e.finish = false ∨ buf.length + 1 < s.cfg.ks → clockEdge e s = kept) ∧
          (e.finish = true → s.cfg.ks ≤ buf.length + 1 → clockEdge e s = clockEdge e kept)) ∧
        (e.pins.seedEos = true →
          (e.finish = true → clockEdge e s = { s with port := .responding ⟨.seedExhausted, 0⟩ }) ∧
          (e.finish = false →
            (f.finish = false → clockEdge f (clockEdge e s) = clockEdge e s) ∧
            (f.finish = true →
              clockEdge f (clockEdge e s) = { s with port := .responding ⟨.seedExhausted, 0⟩ }))))) ∧
    (s.port = .seeding false buf → f.finish = true →
      (buf.length < s.cfg.ks → clockEdge f s = { s with port := .seeding true buf }) ∧
      (s.cfg.ks ≤ buf.length → (clockEdge f s).port = .responding ⟨.ok, 0⟩))

/-- The pin-level block refines the transaction-level one (00_scope.md R13, R9; 92_eei_decisions.md D1): for every command and every
sequence of edges without reset that carries it from acceptance to a response, whatever the latencies and whenever the
seed source answers, the registers and the response are those of the one transaction step given the answers taken. -/
def Obligations.PinLevelRunsRefineTheTransaction : Prop :=
  ∀ (es : List Edge) (s t : State) (c : Command) (as : List SeedAnswer) (r : Response),
    (∀ e ∈ es, e.pins.rst = false) → s.env.rst = false →
    runToResponse es { s with port := .busy c } = (t, as) → t.port = .responding r →
    step { s with port := .busy c, env := { s.env with seeds := as } } =
      .next { t with env := { s.env with seeds := [] } }

/-- 60_exceptions.md R313, 70_reset_and_hazards.md R347, as the assumptions they are called there: in a run of edges without
reset in which HOST raises `rsp_ready` eventually, SEED answers each request eventually and every latency is finite, the
block becomes ready again after every edge, where it takes the command HOST has held; and every accepted command is answered
and its response taken, with `cmd_ready` = 0 all the while (30_encoding.md R93), in the state and with the response of the
one transaction (R13) for some answers of the seed source. -/
def Obligations.FairEdgesAnswerEveryCommand : Prop :=
  ∀ (es : Nat → Edge) (s : State) (n : Nat), FairEdges es s → (∀ m, n ≤ m → (es m).pins.rst = false) →
    (∃ m, n ≤ m ∧ (pinsAt es s m).cmdReady = true ∧
      (HoldsCommand es s → (∀ k, n ≤ k → k ≤ m → (es k).pins.cmdValid = true) →
        (es m).pins.cmdWord = (es n).pins.cmdWord ∧ (es m).pins.cmdData = (es n).pins.cmdData)) ∧
    ((pinsAt es s n).cmdReady = true → (es n).pins.cmdValid = true →
      ∃ (m : Nat) (r : Response) (t : State) (as : List SeedAnswer),
        n < m ∧ (es m).pins.rspReady = true ∧ (pinsAt es s m).rsp = some (r.status.code, r.data) ∧
          (∀ k, n < k → k ≤ m → (pinsAt es s k).cmdReady = false) ∧
          issue ⟨(es n).pins.cmdWord, (es n).pins.cmdData⟩
              { edgeRun es s n with env := { (edgeRun es s n).env with seeds := as } } = some (r, t) ∧
          edgeRun es s (m + 1) = { t with env := (edgeRun es s n).env })

/-- The same over runs of `step` (R313, R347): in a run without reset in which an offered response meets `rsp_ready` = 1 and
an outstanding request meets an answer eventually, every command an idle block is offered ends with exactly one more response
taken, that of its one transaction for some answers of the seed source, and the block idle with the transaction's registers.
That the outside acts between steps is the model's choice (log entry 19). -/
def Obligations.FairTurnsAnswerEveryCommand : Prop :=
  ∀ (turns : Nat → Turn) (run : Nat → State) (n : Nat) (c : Command) (cs : List Command),
    IsRun turns run → FairTurns turns run → (∀ m, n ≤ m → (turns m).rst = false) →
    (run n).port = .idle → (run n).env.cmds ++ (turns n).cmds = c :: cs →
    ∃ (m : Nat) (r : Response) (t : State) (as : List SeedAnswer),
      n < m ∧ issue c { run n with env := { (run n).env with seeds := as } } = some (r, t) ∧
        (run m).port = .idle ∧ (run m).regs = t.regs ∧ (run m).cfg = t.cfg ∧
        (run m).env.taken = (run n).env.taken ++ [r]

-- CONFIGURATION AND ASSEMBLER ------------------------------------------------------------------------------------------

/-- R6, R8: a block is built for exactly the configurations of the table, with those parameters; every other is refused. -/
def Obligations.OnlyLegalConfigurationsAreBuilt : Prop :=
  ∀ w r ks cs : Nat,
    (∀ c, Config.build w r ks cs = .ok c → c.W.bits = w ∧ c.rounds = r ∧ c.ks = ks ∧ c.cs = cs) ∧
      ((∃ c, Config.build w r ks cs = .ok c) ↔
        (w = 8 ∨ w = 16 ∨ w = 32 ∨ w = 64) ∧ r ≤ 2 ^ 32 - 1 ∧ ks ≤ 4 ∧ 1 ≤ cs ∧ cs ≤ 4)

/-- The source's reduced-width equivalence for keys (R32, T-PROP): in a block with KS < 4 whose invariants hold, NEXT,
DISCARD, CTRWR, CURWR and the register reads act as in a block with KS = 4 and the unused key words zero. -/
def Obligations.ReducedKeySizeActsAsZeroPadding : Prop :=
  ∀ (s : State) (i : Instr), s.Inv →
    (i = .next ∨ (∃ n, i = .discard n) ∨ (∃ j v, i = .ctrwr j v) ∨ (∃ p, i = .curwr p) ∨ (∃ j, i = .keyrd j) ∨
      (∃ j, i = .ctrrd j) ∨ i = .currd ∨ ∃ j, i = .blkrd j) →
    ∃ t, exec i s = .next t ∧
      exec i { s with cfg := { s.cfg with KS := .k4 } } = .next { t with cfg := { s.cfg with KS := .k4 } }

/-- R105: the assembler emits the command word and operand of the table for every mnemonic, and refuses an index outside
0..3 and a number that does not fit in 64 bits. -/
def Obligations.AssemblerEmitsTheTable : Prop :=
  ∀ (c : Config) (i v : Nat),
    (i < 4 → v < 2 ^ 64 →
      assemble c .nop = some [⟨0x00000000, 0⟩] ∧ assemble c .next = some [⟨0x00000001, 0⟩] ∧
      assemble c (.discard v) = some [⟨0x00000002, BitVec.ofNat 64 v⟩] ∧
      assemble c (.seedi v) = some [⟨0x00000003, BitVec.ofNat 64 v⟩] ∧ assemble c .seeds = some [⟨0x00000004, 0⟩] ∧
      assemble c (.keywr i v) = some [⟨0x00000005 ||| BitVec.ofNat 32 (i * 256), BitVec.ofNat 64 v⟩] ∧
      assemble c (.keyrd i) = some [⟨0x00000006 ||| BitVec.ofNat 32 (i * 256), 0⟩] ∧
      assemble c (.ctrwr i v) = some [⟨0x00000007 ||| BitVec.ofNat 32 (i * 256), BitVec.ofNat 64 v⟩] ∧
      assemble c (.ctrrd i) = some [⟨0x00000008 ||| BitVec.ofNat 32 (i * 256), 0⟩] ∧
      assemble c (.curwr v) = some [⟨0x00000009, BitVec.ofNat 64 v⟩] ∧ assemble c .currd = some [⟨0x0000000A, 0⟩] ∧
      assemble c (.blkrd i) = some [⟨0x0000000B ||| BitVec.ofNat 32 (i * 256), 0⟩] ∧
      assemble c (.inford i) = some [⟨0x0000000C ||| BitVec.ofNat 32 (i * 256), 0⟩]) ∧
    (4 ≤ i →
      assemble c (.keywr i v) = none ∧ assemble c (.keyrd i) = none ∧ assemble c (.ctrwr i v) = none ∧
      assemble c (.ctrrd i) = none ∧ assemble c (.blkrd i) = none ∧ assemble c (.inford i) = none) ∧
    (2 ^ 64 ≤ v →
      assemble c (.discard v) = none ∧ assemble c (.seedi v) = none ∧ assemble c (.keywr i v) = none ∧
      assemble c (.ctrwr i v) = none ∧ assemble c (.curwr v) = none)
end

