-- ==== Sys2Proof/Laws/Decode.lean ====
section
/-! SUPPORT. How decoding a command comes down to decoding its word, which is a closed fact. -/

namespace Sys2Proof

/-- A command decodes as its word does, with its own operand. -/
theorem decode_of_decodeWord {w : BitVec 32} {m : Mnemonic} {idx : Fin 4} (h : decodeWord w = some (m, idx)) (d : Word) :
    decode ⟨w, d⟩ = some (Instr.ofFields m idx d) := by
  simp [decode, h]

/-- A command whose word is ILLEGAL_COMMAND does not decode. -/
theorem decode_of_decodeWord_none {w : BitVec 32} (h : decodeWord w = none) (d : Word) : decode ⟨w, d⟩ = none := by
  simp [decode, h]

/-- What a command decodes to comes from its word and its operand. -/
theorem decode_eq_some {c : Command} {i : Instr} :
    decode c = some i ↔ ∃ m idx, decodeWord c.word = some (m, idx) ∧ Instr.ofFields m idx c.data = i := by
  simp [decode, Option.map_eq_some_iff]

/-- An instruction made from fields belongs to the row of its operation. -/
@[simp] theorem mnemonic_ofFields (m : Mnemonic) (idx : Fin 4) (d : Word) : (Instr.ofFields m idx d).mnemonic = m := by
  cases m <;> rfl

end Sys2Proof
end

