-- ==== Sys2Proof/Laws/State.lean ====
section
/-! SUPPORT. The small lemmas of State and of the functions that update it: one lemma per field per update, true by
rfl, so that later proofs need not unfold an update. -/

namespace Sys2Proof.Machine.State

section respond
variable (s : State) (st : Status) (d : Word)

@[simp] theorem respond_cfg : (s.respond st d).cfg = s.cfg := rfl
@[simp] theorem respond_K : (s.respond st d).K = s.K := rfl
@[simp] theorem respond_KP : (s.respond st d).KP = s.KP := rfl
@[simp] theorem respond_CTR : (s.respond st d).CTR = s.CTR := rfl
@[simp] theorem respond_BLK : (s.respond st d).BLK = s.BLK := rfl
@[simp] theorem respond_CUR : (s.respond st d).CUR = s.CUR := rfl
@[simp] theorem respond_port : (s.respond st d).port = .responding ⟨st, d⟩ := rfl
@[simp] theorem respond_env : (s.respond st d).env = s.env := rfl
@[simp] theorem respond_regs : (s.respond st d).regs = s.regs := rfl

@[simp] theorem raise_cfg : (s.raise st).cfg = s.cfg := rfl
@[simp] theorem raise_port : (s.raise st).port = .responding ⟨st, 0⟩ := rfl
@[simp] theorem raise_env : (s.raise st).env = s.env := rfl
@[simp] theorem raise_regs : (s.raise st).regs = s.regs := rfl

end respond

section block
variable (s : State)

@[simp] theorem recomputeBlock_cfg : s.recomputeBlock.cfg = s.cfg := rfl
@[simp] theorem recomputeBlock_K : s.recomputeBlock.K = s.K := rfl
@[simp] theorem recomputeBlock_KP : s.recomputeBlock.KP = s.KP := rfl
@[simp] theorem recomputeBlock_CTR : s.recomputeBlock.CTR = s.CTR := rfl
@[simp] theorem recomputeBlock_BLK : s.recomputeBlock.BLK = s.currentBlock := rfl
@[simp] theorem recomputeBlock_CUR : s.recomputeBlock.CUR = s.CUR := rfl
@[simp] theorem recomputeBlock_port : s.recomputeBlock.port = s.port := rfl
@[simp] theorem recomputeBlock_env : s.recomputeBlock.env = s.env := rfl

@[simp] theorem keyChangeTail_cfg : s.keyChangeTail.cfg = s.cfg := rfl
@[simp] theorem keyChangeTail_K : s.keyChangeTail.K = s.K := rfl
@[simp] theorem keyChangeTail_KP : s.keyChangeTail.KP = parity s.keyWords := rfl
@[simp] theorem keyChangeTail_CTR : s.keyChangeTail.CTR = Quad.zero := rfl
@[simp] theorem keyChangeTail_CUR : s.keyChangeTail.CUR = 0 := rfl
@[simp] theorem keyChangeTail_port : s.keyChangeTail.port = s.port := rfl
@[simp] theorem keyChangeTail_env : s.keyChangeTail.env = s.env := rfl

@[simp] theorem nextBlock_cfg : s.nextBlock.cfg = s.cfg := rfl
@[simp] theorem nextBlock_K : s.nextBlock.K = s.K := rfl
@[simp] theorem nextBlock_KP : s.nextBlock.KP = s.KP := rfl
@[simp] theorem nextBlock_CTR : s.nextBlock.CTR = inc s.cfg s.CTR := rfl
@[simp] theorem nextBlock_CUR : s.nextBlock.CUR = s.CUR := rfl
@[simp] theorem nextBlock_port : s.nextBlock.port = s.port := rfl
@[simp] theorem nextBlock_env : s.nextBlock.env = s.env := rfl

variable (q : Word)

@[simp] theorem advanceBlocks_cfg : (s.advanceBlocks q).cfg = s.cfg := rfl
@[simp] theorem advanceBlocks_K : (s.advanceBlocks q).K = s.K := rfl
@[simp] theorem advanceBlocks_KP : (s.advanceBlocks q).KP = s.KP := rfl
@[simp] theorem advanceBlocks_CTR : (s.advanceBlocks q).CTR = advance s.cfg q s.CTR := rfl
@[simp] theorem advanceBlocks_CUR : (s.advanceBlocks q).CUR = s.CUR := rfl
@[simp] theorem advanceBlocks_port : (s.advanceBlocks q).port = s.port := rfl
@[simp] theorem advanceBlocks_env : (s.advanceBlocks q).env = s.env := rfl

variable (ws : List Word)

@[simp] theorem loadKey_cfg : (s.loadKey ws).cfg = s.cfg := rfl
@[simp] theorem loadKey_K : (s.loadKey ws).K = Quad.ofList ws := rfl
@[simp] theorem loadKey_CTR : (s.loadKey ws).CTR = Quad.zero := rfl
@[simp] theorem loadKey_CUR : (s.loadKey ws).CUR = 0 := rfl
@[simp] theorem loadKey_port : (s.loadKey ws).port = s.port := rfl
@[simp] theorem loadKey_env : (s.loadKey ws).env = s.env := rfl

end block

section reset
variable (s : State)

@[simp] theorem resetOf_cfg (c : Config) : (State.resetOf c).cfg = c := rfl
@[simp] theorem resetOf_port (c : Config) : (State.resetOf c).port = .idle := rfl

@[simp] theorem resetBlock_cfg : s.resetBlock.cfg = s.cfg := rfl
@[simp] theorem resetBlock_port : s.resetBlock.port = .starting := rfl
@[simp] theorem resetBlock_env : s.resetBlock.env = s.env := rfl
@[simp] theorem resetBlock_regs : s.resetBlock.regs = (State.resetOf s.cfg).regs := rfl

@[simp] theorem takeReset_cfg : s.takeReset.cfg = s.cfg := rfl
@[simp] theorem takeReset_port : s.takeReset.port = .starting := rfl
@[simp] theorem takeReset_regs : s.takeReset.regs = (State.resetOf s.cfg).regs := rfl

@[simp] theorem becomeReady_cfg : s.becomeReady.cfg = s.cfg := rfl
@[simp] theorem becomeReady_port : s.becomeReady.port = .idle := rfl
@[simp] theorem becomeReady_env : s.becomeReady.env = s.env := rfl
@[simp] theorem becomeReady_regs : s.becomeReady.regs = s.regs := rfl

end reset

section seed
variable (s : State) (buf : List Word)

@[simp] theorem seedTake_eos : s.seedTake buf .eos = { s with port := .seedEnded } := rfl
@[simp] theorem seedTake_word (v : Word) :
    s.seedTake buf (.word v) = { s with port := .seeding false (buf ++ [v]) } := rfl
@[simp] theorem seedTake_cfg (a : SeedAnswer) : (s.seedTake buf a).cfg = s.cfg := by cases a <;> rfl
@[simp] theorem seedTake_env (a : SeedAnswer) : (s.seedTake buf a).env = s.env := by cases a <;> rfl
@[simp] theorem seedTake_regs (a : SeedAnswer) : (s.seedTake buf a).regs = s.regs := by cases a <;> rfl

end seed

end Sys2Proof.Machine.State
end

