-- ==== Sys2Proof/Laws/Ops.lean ====
section
/-! SUPPORT. One lemma per shared operation that says once what it can do, for the provers to cite. -/

namespace Sys2Proof

namespace Quad

/-- Reading the word that was written gives the value written; every other word is untouched. -/
theorem get_set (q : Quad) (i j : Fin 4) (v : Word) : (q.set i v).get j = if j = i then v else q.get j := by
  fin_cases i <;> fin_cases j <;> rfl

/-- A hard-wired file reads its implemented words, and zero elsewhere (10_state.md R32, R34). -/
theorem get_hardwire (n : Nat) (q : Quad) (i : Fin 4) :
    (q.hardwire n).get i = if i.val < n then q.get i else 0 := by
  fin_cases i <;> rfl

/-- Two files with the same words are the same file. -/
theorem ext_get {p q : Quad} (h : ∀ i : Fin 4, p.get i = q.get i) : p = q := by
  cases p; cases q
  have h0 := h 0; have h1 := h 1; have h2 := h 2; have h3 := h 3
  simp only [get] at h0 h1 h2 h3
  subst h0 h1 h2 h3; rfl

/-- A file whose words above `n` are zero already reads as itself. -/
theorem hardwire_eq_self {n : Nat} {q : Quad} (h : ∀ i : Fin 4, n ≤ i.val → q.get i = 0) : q.hardwire n = q := by
  refine ext_get fun i => ?_
  rw [get_hardwire]
  by_cases hi : i.val < n
  · simp [hi]
  · simp [hi, h i (by omega)]

/-- Hard-wiring an already hard-wired file changes nothing. -/
theorem hardwire_hardwire (n : Nat) (q : Quad) : (q.hardwire n).hardwire n = q.hardwire n := by
  refine hardwire_eq_self fun i hi => ?_
  rw [get_hardwire]; simp [Nat.not_lt.mpr hi]

end Quad

namespace Machine

/-- The carry chain touches no word outside its list. -/
theorem ripple_get_of_not_mem {is : List (Fin 4)} {carry : Bool} {q : Quad} {j : Fin 4} (hj : j ∉ is) :
    (ripple is carry q).get j = q.get j := by
  induction is generalizing carry q with
  | nil => rfl
  | cons i is ih =>
    simp only [List.mem_cons, not_or] at hj
    unfold ripple
    split
    · rw [ih hj.2, Quad.get_set]; simp [hj.1]
    · exact ih hj.2

/-- Without a carry the chain changes nothing. -/
theorem ripple_false (is : List (Fin 4)) (q : Quad) : ripple is false q = q := by
  induction is generalizing q with
  | nil => rfl
  | cons i is ih => unfold ripple; simpa using ih q

/-- An index is implemented iff it is in the list INC and ADVANCE run over. -/
theorem mem_ctrIndices (c : Config) (i : Fin 4) : i ∈ ctrIndices c ↔ i.val < c.cs := by
  obtain ⟨W, R, KS, CS⟩ := c
  change i ∈ ([0, 1, 2, 3] : List (Fin 4)).take CS.toNat ↔ i.val < CS.toNat
  revert i
  cases CS <;> decide

/-- INC leaves the unimplemented words alone (41_counter.md R160). -/
theorem inc_get_unimplemented {c : Config} {q : Quad} {i : Fin 4} (h : c.cs ≤ i.val) : (inc c q).get i = q.get i :=
  ripple_get_of_not_mem (by rw [mem_ctrIndices]; omega)

/-- At least one counter word is implemented (00_scope.md R6). -/
theorem cs_pos (c : Config) : 0 < c.cs := by
  obtain ⟨W, R, KS, CS⟩ := c
  change 0 < CS.toNat
  cases CS <;> decide

/-- ADVANCE leaves the unimplemented words alone (R160). -/
theorem advance_get_unimplemented {c : Config} {d : Word} {q : Quad} {i : Fin 4} (h : c.cs ≤ i.val) :
    (advance c d q).get i = q.get i := by
  have hi : i ∉ ctrIndices c := by rw [mem_ctrIndices]; omega
  have h0 : i ≠ 0 := by have := cs_pos c; rintro rfl; simp at h; omega
  rw [advance, ripple_get_of_not_mem (fun hm => hi (List.mem_of_mem_tail hm)), Quad.get_set]
  simp [h0]

/-- DISCARD touches the counter, the block and the cursor only (44_engine.md R251). -/
theorem discardBy_frame (s : State) (n : Word) :
    (s.discardBy n).cfg = s.cfg ∧ (s.discardBy n).K = s.K ∧ (s.discardBy n).KP = s.KP ∧
      (s.discardBy n).port = s.port ∧ (s.discardBy n).env = s.env := by
  unfold State.discardBy
  split
  · simp
  · dsimp only; split <;> simp

namespace State

/-- Between answers: the next request, the loaded key, or nothing to do. -/
theorem seedProceed_cases (s : State) :
    (∃ buf, s.port = .seeding false buf ∧ buf.length < s.cfg.ks ∧ s.seedProceed = { s with port := .seeding true buf }) ∨
      (∃ buf, s.port = .seeding false buf ∧ s.cfg.ks ≤ buf.length ∧
        s.seedProceed = (s.loadKey (buf.take s.cfg.ks)).respond .ok 0) ∨
      (s.port = .seedEnded ∧ s.seedProceed = s.raise .seedExhausted) ∨
      ((∀ buf, s.port ≠ .seeding false buf) ∧ s.port ≠ .seedEnded ∧ s.seedProceed = s) := by
  unfold seedProceed
  split
  · next buf h =>
    by_cases hl : buf.length < s.cfg.ks
    · exact .inl ⟨buf, h, hl, by simp [hl]⟩
    · exact .inr (.inl ⟨buf, h, by omega, by simp [hl]⟩)
  · next h => exact .inr (.inr (.inl ⟨h, rfl⟩))
  · next h1 h2 => exact .inr (.inr (.inr ⟨fun buf hb => h1 buf hb, fun he => h2 he, rfl⟩))

@[simp] theorem seedProceed_cfg (s : State) : s.seedProceed.cfg = s.cfg := by
  obtain ⟨buf, -, -, h⟩ | ⟨buf, -, -, h⟩ | ⟨-, h⟩ | ⟨-, -, h⟩ := s.seedProceed_cases <;> simp [h]

@[simp] theorem seedProceed_env (s : State) : s.seedProceed.env = s.env := by
  obtain ⟨buf, -, -, h⟩ | ⟨buf, -, -, h⟩ | ⟨-, h⟩ | ⟨-, -, h⟩ := s.seedProceed_cases <;> simp [h]

/-- With no answer left the command waits. -/
@[simp] theorem seedRun_nil (s : State) : seedRun [] s = { s with env := { s.env with seeds := [] } } := rfl

/-- With a request outstanding the next answer is taken and consumed. -/
theorem seedRun_cons {s : State} {buf : List Word} (h : s.port = .seeding true buf) (a : SeedAnswer)
    (as : List SeedAnswer) : seedRun (a :: as) s = seedRun as (seedProceed (s.seedTake buf a)) := by
  simp [seedRun, h]

/-- With no request outstanding no answer is taken. -/
theorem seedRun_of_no_request {s : State} (h : ∀ buf, s.port ≠ .seeding true buf) (as : List SeedAnswer) :
    seedRun as s = { s with env := { s.env with seeds := as } } := by
  cases as with
  | nil => rfl
  | cons a as =>
    unfold seedRun
    split
    · next buf hb => exact absurd hb (h buf)
    · rfl

end State

section step
variable {s : State}

/-- A step under reset. -/
theorem step_of_rst (h : s.env.rst = true) : step s = .next s.takeReset := by simp [step, h]

/-- A step of a block that has latched a command. -/
theorem step_of_busy {c : Command} (hr : s.env.rst = false) (h : s.port = .busy c) : step s = runLatched c s := by
  simp [step, hr, h]

/-- A step of an idle block. -/
theorem step_of_idle (hr : s.env.rst = false) (h : s.port = .idle) : step s = .next s.accept := by
  simp [step, hr, h]

/-- A step of a block whose response is offered. -/
theorem step_of_responding {r : Response} (hr : s.env.rst = false) (h : s.port = .responding r) :
    step s = .next (s.deliver r) := by
  simp [step, hr, h]

/-- A step of a block whose SEEDS is in progress. -/
theorem step_of_seeding {req : Bool} {buf : List Word} (hr : s.env.rst = false) (h : s.port = .seeding req buf) :
    step s = .next s.seedPull := by
  simp [step, hr, h]

/-- A word that does not decode is rejected (30_encoding.md R99, R100). -/
theorem runLatched_of_decode_none {c : Command} (h : decode c = none) : runLatched c s = .next (s.raise .illegalCommand) := by
  simp [runLatched, h]

/-- A word that decodes is executed. -/
theorem runLatched_of_decode {c : Command} {i : Instr} (h : decode c = some i) : runLatched c s = exec i s := by
  simp [runLatched, h]

end step

section clockEdge
variable {s : State} {e : Edge}

/-- An edge under reset. -/
theorem clockEdge_of_rst (h : e.pins.rst = true) : clockEdge e s = s.resetEdge e := by simp [clockEdge, h]

/-- An edge of a block that becomes ready after reset. -/
theorem clockEdge_of_starting (hr : e.pins.rst = false) (h : s.port = .starting) :
    clockEdge e s = if e.finish then s.becomeReady else s := by simp [clockEdge, hr, h]

/-- An edge of an idle block. -/
theorem clockEdge_of_idle (hr : e.pins.rst = false) (h : s.port = .idle) : clockEdge e s = s.acceptPins e := by
  simp [clockEdge, hr, h]

/-- An edge of a block that has latched a command. -/
theorem clockEdge_of_busy {c : Command} (hr : e.pins.rst = false) (h : s.port = .busy c) :
    clockEdge e s = s.commandEdge e c := by simp [clockEdge, hr, h]

/-- An edge with a seed request outstanding. -/
theorem clockEdge_of_request {buf : List Word} (hr : e.pins.rst = false) (h : s.port = .seeding true buf) :
    clockEdge e s = s.seedEdge e buf := by simp [clockEdge, hr, h]

/-- An edge of a SEEDS with no request outstanding. -/
theorem clockEdge_of_seedWork (hr : e.pins.rst = false) (h : (∃ buf, s.port = .seeding false buf) ∨ s.port = .seedEnded) :
    clockEdge e s = s.seedWork e := by
  obtain ⟨buf, h⟩ | h := h <;> simp [clockEdge, hr, h]

/-- An edge with a response offered. -/
theorem clockEdge_of_responding {r : Response} (hr : e.pins.rst = false) (h : s.port = .responding r) :
    clockEdge e s = if e.pins.rspReady then { s with port := .idle } else s := by simp [clockEdge, hr, h]

/-- The answering edge of a seed request: EOS ends the sequence, a word is kept, and the last answer may end the command. -/
theorem seedEdge_cases (buf : List Word) :
    (e.pins.seedAck = false ∧ s.seedEdge e buf = s) ∨
      (e.pins.seedAck = true ∧ e.pins.seedEos = true ∧
        s.seedEdge e buf = State.seedWork e { s with port := .seedEnded }) ∨
      (e.pins.seedAck = true ∧ e.pins.seedEos = false ∧ buf.length + 1 < s.cfg.ks ∧
        s.seedEdge e buf = { s with port := .seeding false (buf ++ [e.pins.seedData]) }) ∨
      (e.pins.seedAck = true ∧ e.pins.seedEos = false ∧ s.cfg.ks ≤ buf.length + 1 ∧
        s.seedEdge e buf = State.seedWork e { s with port := .seeding false (buf ++ [e.pins.seedData]) }) := by
  cases ha : e.pins.seedAck
  · exact .inl ⟨rfl, by simp [State.seedEdge, ha]⟩
  cases he : e.pins.seedEos
  · by_cases hl : s.cfg.ks ≤ buf.length + 1
    · exact .inr (.inr (.inr ⟨rfl, rfl, hl, by
        simp [State.seedEdge, seedPins, State.seedTake, State.seedComplete, ha, he, hl]⟩))
    · exact .inr (.inr (.inl ⟨rfl, rfl, by omega, by
        simp [State.seedEdge, seedPins, State.seedTake, State.seedComplete, ha, he, hl]⟩))
  · exact .inr (.inl ⟨rfl, rfl, by simp [State.seedEdge, seedPins, State.seedTake, State.seedComplete, ha, he]⟩)

/-- One more edge of a run. -/
@[simp] theorem edgeRun_succ (es : Nat → Edge) (s : State) (n : Nat) :
    edgeRun es s (n + 1) = clockEdge (es n) (edgeRun es s n) := rfl

/-- A state that every edge from `n` to `m` leaves alone is the state before edge `m` too. -/
theorem edgeRun_hold {es : Nat → Edge} {s : State} {n m : Nat} (hm : n ≤ m)
    (h : ∀ k, n ≤ k → k < m → clockEdge (es k) (edgeRun es s n) = edgeRun es s n) :
    edgeRun es s m = edgeRun es s n := by
  induction m, hm using Nat.le_induction with
  | base => rfl
  | succ m hm ih =>
    rw [edgeRun_succ, ih fun k hk hkm => h k hk (by omega), h m hm (by omega)]

end clockEdge

section turn
variable (t : Turn) (s : State)

@[simp] theorem turn_cfg : (s.turn t).cfg = s.cfg := rfl
@[simp] theorem turn_port : (s.turn t).port = s.port := rfl
@[simp] theorem turn_regs : (s.turn t).regs = s.regs := rfl
@[simp] theorem turn_env_rst : (s.turn t).env.rst = t.rst := rfl
@[simp] theorem turn_env_cmds : (s.turn t).env.cmds = s.env.cmds ++ t.cmds := rfl
@[simp] theorem turn_env_rspReady : (s.turn t).env.rspReady = t.rspReady := rfl
@[simp] theorem turn_env_seeds : (s.turn t).env.seeds = s.env.seeds ++ t.seeds := rfl
@[simp] theorem turn_env_taken : (s.turn t).env.taken = s.env.taken := rfl

end turn

/-- A thing that happens at `n` or later happens for a first time. -/
theorem first_from {p : Nat → Prop} {n : Nat} (h : ∃ m, n ≤ m ∧ p m) :
    ∃ m, n ≤ m ∧ p m ∧ ∀ k, n ≤ k → k < m → ¬ p k := by
  classical
  refine ⟨Nat.find h, (Nat.find_spec h).1, (Nat.find_spec h).2, fun k hk hkm hp => ?_⟩
  exact Nat.find_min h hkm ⟨hk, hp⟩

end Machine

end Sys2Proof
end

