-- ==== Sys2Proof/Laws/PerInstr.lean ====
section
/-! SUPPORT. Facts about every instruction as syntax, one lemma per constructor. -/

/-- The encoding of an instruction matches the row of the opcode map that bears its name (30_encoding.md R98). -/
def Sys2Proof.Laws.MatchesRow.Statement (i : Sys2Proof.Instr) : Prop :=
  ∃ r ∈ Sys2Proof.opcodeMap, r.name = i.mnemonic ∧ r.selects (Sys2Proof.encode i).word = true

namespace Sys2Proof.Laws.MatchesRow

theorem nop : Statement .nop := by unfold Statement; decide
theorem next : Statement .next := by unfold Statement; decide
theorem discard (n : Word) : Statement (.discard n) := ⟨⟨.DISCARD, 0x00000002, 0xFFFFFFFF⟩, by decide, rfl, by simp [OpcodeRow.selects, encode]⟩
theorem seedi (v : Word) : Statement (.seedi v) := ⟨⟨.SEEDI, 0x00000003, 0xFFFFFFFF⟩, by decide, rfl, by simp [OpcodeRow.selects, encode]⟩
theorem seeds : Statement .seeds := by unfold Statement; decide
theorem keywr (idx : Fin 4) (v : Word) : Statement (.keywr idx v) :=
  ⟨⟨.KEYWR, 0x00000005, 0xFFFFFCFF⟩, by decide, rfl,
    (by decide : ∀ i, OpcodeRow.selects ⟨.KEYWR, 0x00000005, 0xFFFFFCFF⟩ (commandWord 0x00000005 i) = true) idx⟩
theorem keyrd (idx : Fin 4) : Statement (.keyrd idx) :=
  ⟨⟨.KEYRD, 0x00000006, 0xFFFFFCFF⟩, by decide, rfl,
    (by decide : ∀ i, OpcodeRow.selects ⟨.KEYRD, 0x00000006, 0xFFFFFCFF⟩ (commandWord 0x00000006 i) = true) idx⟩
theorem ctrwr (idx : Fin 4) (v : Word) : Statement (.ctrwr idx v) :=
  ⟨⟨.CTRWR, 0x00000007, 0xFFFFFCFF⟩, by decide, rfl,
    (by decide : ∀ i, OpcodeRow.selects ⟨.CTRWR, 0x00000007, 0xFFFFFCFF⟩ (commandWord 0x00000007 i) = true) idx⟩
theorem ctrrd (idx : Fin 4) : Statement (.ctrrd idx) :=
  ⟨⟨.CTRRD, 0x00000008, 0xFFFFFCFF⟩, by decide, rfl,
    (by decide : ∀ i, OpcodeRow.selects ⟨.CTRRD, 0x00000008, 0xFFFFFCFF⟩ (commandWord 0x00000008 i) = true) idx⟩
theorem curwr (p : Word) : Statement (.curwr p) := ⟨⟨.CURWR, 0x00000009, 0xFFFFFFFF⟩, by decide, rfl, by simp [OpcodeRow.selects, encode]⟩
theorem currd : Statement .currd := by unfold Statement; decide
theorem blkrd (idx : Fin 4) : Statement (.blkrd idx) :=
  ⟨⟨.BLKRD, 0x0000000B, 0xFFFFFCFF⟩, by decide, rfl,
    (by decide : ∀ i, OpcodeRow.selects ⟨.BLKRD, 0x0000000B, 0xFFFFFCFF⟩ (commandWord 0x0000000B i) = true) idx⟩
theorem inford (idx : Fin 4) : Statement (.inford idx) :=
  ⟨⟨.INFORD, 0x0000000C, 0xFFFFFCFF⟩, by decide, rfl,
    (by decide : ∀ i, OpcodeRow.selects ⟨.INFORD, 0x0000000C, 0xFFFFFCFF⟩ (commandWord 0x0000000C i) = true) idx⟩

end Sys2Proof.Laws.MatchesRow
end

