-- ==== Sys2Proof/Tests/Slice0.lean ====
section
/-! SUPPORT. The model's own tests: refused terms for every check, a written-out word for every command, one step or one
operation against the vectors of spec/95_test_vectors.md, and, for every statement with hypotheses, a witness that meets
them. -/

namespace Sys2Proof.Tests

open Sys2Proof.Machine

/-- The next state of an outcome. -/
def nextOf : Host.Outcome State Fault Refusal → Option State
  | .next t => some t
  | .fault _ => none
  | .refused _ => none

/-- The response an outcome offers. -/
def replyOf (o : Host.Outcome State Fault Refusal) : Option Response :=
  match nextOf o with
  | some t =>
    match t.port with
    | .responding r => some r
    | _ => none
  | none => none

/-- A consistent state of a block with that configuration, key, counter and cursor. -/
def at_ (c : Config) (k ctr : Quad) (cur : BitVec 6) : State :=
  { State.resetOf c with
    K := k, KP := parity k, CTR := ctr, CUR := cur, BLK := encrypt ctr k (parity k) c.rounds }

/-- A configuration. -/
def cfg (w : Width) (r : BitVec 32) (k : KeySize) (c : CounterSize) : Config := ⟨w, r, k, c⟩

/-- `s` with those answers on their way from the seed source. -/
def withSeeds (s : State) (as : List SeedAnswer) : State := { s with env := { s.env with seeds := as } }

/-- `s` with the port at `p`. -/
def atPort (s : State) (p : Port) : State := { s with port := p }

/-- Input pins with nothing asserted. -/
def lowPins : PinsIn := ⟨false, false, 0, 0, false, false, false, 0⟩

-- CHECKS THAT REFUSE ---------------------------------------------------------------------------------------------------

theorem test_wf_refuses_index_4 : AsmLine.wf Config.standard (.keyrd 4) = false := by decide
theorem test_wf_refuses_wide_number : AsmLine.wf Config.standard (.discard (2 ^ 64)) = false := by decide
theorem test_wf_refuses_wide_raw_word : AsmLine.wf Config.standard (.word (2 ^ 32) 0) = false := by decide
theorem test_wf_refuses_setkey_count : AsmLine.wf Config.standard (.setkey [1, 2, 3]) = false := by decide
theorem test_wf_refuses_setctr_count : AsmLine.wf Config.standard (.setctr [1, 2, 3, 4, 5]) = false := by decide
theorem test_wf_refuses_deserialize_count : AsmLine.wf Config.standard (.deserialize [1, 2, 3]) = false := by decide
theorem test_wf_takes_unimplemented_index : AsmLine.wf (cfg .w64 20 .k0 .c1) (.keywr 3 7) = true := by decide
theorem test_build_refuses_by_name :
    (Config.build 24 20 4 4 matches .error .badW) = true ∧ (Config.build 64 (2 ^ 32) 4 4 matches .error .badRounds) = true ∧
      (Config.build 64 20 5 4 matches .error .badKeySize) = true ∧
      (Config.build 64 20 4 0 matches .error .badCounterSize) = true := by decide

-- DECODING: a word written out from R94 and R98 for every command -----------------------------------------------------

theorem test_decode_nop : decode ⟨0b0000000000000000000000_00_00000000#32, 9⟩ = some .nop := by decide
theorem test_decode_next : decode ⟨0b0000000000000000000000_00_00000001#32, 9⟩ = some .next := by decide
theorem test_decode_discard : decode ⟨0b0000000000000000000000_00_00000010#32, 9⟩ = some (.discard 9) := by decide
theorem test_decode_seedi : decode ⟨0b0000000000000000000000_00_00000011#32, 9⟩ = some (.seedi 9) := by decide
theorem test_decode_seeds : decode ⟨0b0000000000000000000000_00_00000100#32, 9⟩ = some .seeds := by decide
theorem test_decode_keywr : decode ⟨0b0000000000000000000000_11_00000101#32, 9⟩ = some (.keywr 3 9) := by decide
theorem test_decode_keyrd : decode ⟨0b0000000000000000000000_01_00000110#32, 9⟩ = some (.keyrd 1) := by decide
theorem test_decode_ctrwr : decode ⟨0b0000000000000000000000_10_00000111#32, 9⟩ = some (.ctrwr 2 9) := by decide
theorem test_decode_ctrrd : decode ⟨0b0000000000000000000000_01_00001000#32, 9⟩ = some (.ctrrd 1) := by decide
theorem test_decode_curwr : decode ⟨0b0000000000000000000000_00_00001001#32, 9⟩ = some (.curwr 9) := by decide
theorem test_decode_currd : decode ⟨0b0000000000000000000000_00_00001010#32, 9⟩ = some .currd := by decide
theorem test_decode_blkrd : decode ⟨0b0000000000000000000000_11_00001011#32, 9⟩ = some (.blkrd 3) := by decide
theorem test_decode_inford : decode ⟨0b0000000000000000000000_10_00001100#32, 9⟩ = some (.inford 2) := by decide

/-- T-DEC's rejected words. -/
theorem test_decode_rejects :
    ([0x101, 0x0D, 0xFF, 0x401, 0x80000001] : List (BitVec 32)).all (fun w => decode ⟨w, 0⟩ == none) = true := by decide

theorem test_decodeTableWord : decodeTableWord 32 0x30B = some (.blkrd 3) ∧ decodeTableWord 32 0x30D = none := by decide

/-- No two rows of the opcode map overlap. -/
theorem test_opcode_rows_disjoint :
    opcodeMap.Pairwise fun a b => (a.pattern &&& b.mask &&& a.mask) ≠ (b.pattern &&& a.mask &&& b.mask) := by decide

-- MICRO-OPERATIONS -----------------------------------------------------------------------------------------------------

/-- T-MIX. -/
theorem test_mix :
    mix 1 2 14 = (3, 0x8003) ∧ mix 0xFFFFFFFFFFFFFFFF 1 16 = (0, 0x10000) ∧
      mix 0x0123456789abcdef 0xfedcba9876543210 5 = (0xffffffffffffffff, 0x2468acf13579bde0) := by decide

/-- T-PAR. -/
theorem test_parity : parity ⟨5, 7, 0, 0⟩ = 0x1bd11bdaa9fc1a20 ∧ parity ⟨1, 2, 3, 0⟩ = 0x1bd11bdaa9fc1a22 := by decide

/-- T-ENC and T-ENC-R0: no round, and one group of four. -/
theorem test_encrypt_small :
    encrypt ⟨1, 2, 3, 4⟩ ⟨10, 20, 30, 40⟩ (parity ⟨10, 20, 30, 40⟩) 0 = ⟨0xb, 0x16, 0x21, 0x2c⟩ ∧
      encrypt Quad.zero Quad.zero C240 5 = ⟨0, 0, 0x1bd11bdaa9fc1a23, 0x48292f9c9e5e2d96⟩ := by decide

/-- T-KAT-PI-13: a non-zero key and counter. -/
theorem test_encrypt_pi_13 :
    encrypt ⟨0x243f6a8885a308d3, 0x13198a2e03707344, 0xa4093822299f31d0, 0x082efa98ec4e6c89⟩
        ⟨0x452821e638d01377, 0xbe5466cf34e90c6c, 0xc0ac29b7c97c50dd, 0x3f84d5b5b5470917⟩ 0x1f85a0f1d9fe5cf3 13 =
      ⟨0x4361288ef9c1900c, 0x8717291521782833, 0x0d19db18c20cf47e, 0xa0b41d63ac8581e5⟩ := by decide

/-- T-INC: wrap of every word, and a carry that ripples. -/
theorem test_inc :
    inc (cfg .w64 20 .k4 .c2) ⟨-1, -1, 0, 0⟩ = Quad.zero ∧ inc (cfg .w64 20 .k4 .c4) ⟨-1, -1, -1, 0⟩ = ⟨0, 0, 0, 1⟩ := by
  decide

/-- T-ADV. -/
theorem test_advance :
    advance (cfg .w64 20 .k4 .c3) 1 ⟨-1, -1, 7, 0⟩ = ⟨0, 0, 8, 0⟩ ∧
      advance (cfg .w64 20 .k4 .c2) 5 ⟨0xfffffffffffffffd, 0, 0, 0⟩ = ⟨2, 1, 0, 0⟩ := by decide

/-- T-EXT, on the source's R = 20 block. -/
theorem test_extract :
    let b : Quad := ⟨0x09218ebde6c85537, 0x55941f5266d86105, 0x4bd25e16282434dc, 0xee29ec846bd2e40b⟩
    (extract .w8 b 7).toNat = 0x09 ∧ (extract .w16 b 15).toNat = 0xee29 ∧ (extract .w32 b 1).toNat = 0x09218ebd ∧
      (extract .w64 b 3).toNat = 0xee29ec846bd2e40b := by decide

-- COMMANDS, one step each ----------------------------------------------------------------------------------------------

/-- R341: the first NEXT after reset is the source's all-zero known answer. -/
theorem test_next_after_reset :
    replyOf (step (State.reset.withFetchWord 32 0x1)) = some ⟨.ok, 0x09218ebde6c85537⟩ := by decide +kernel

/-- T-NEXT-WRAP: an exhausted block at the top of the counter. -/
theorem test_next_wraps :
    let t := nextOf (exec .next (at_ (cfg .w64 4 .k4 .c1) Quad.zero ⟨-1, 0, 0, 0⟩ 4))
    t.map (·.CTR) = some Quad.zero ∧ t.map (·.CUR) = some 1 := by decide

/-- T-DIS: 4 from (7, 0) is the exhausted state. -/
theorem test_discard_exact_multiple :
    (nextOf (exec (.discard 4) (at_ (cfg .w64 0 .k4 .c4) Quad.zero ⟨7, 0, 0, 0⟩ 0))).map (fun t => (t.CTR.w0, t.CUR)) =
      some (7, 4) := by decide

/-- T-DIS-WRAP: the largest n, with a carry into word 1. -/
theorem test_discard_largest :
    (nextOf (exec (.discard (-1)) (at_ (cfg .w64 0 .k4 .c2) Quad.zero ⟨0xfffffffffffffffa, 0, 0, 0⟩ 2))).map
      (fun t => (t.CTR, t.CUR)) = some (⟨0x3ffffffffffffffa, 1, 0, 0⟩, 1) := by decide

/-- R135: with KS = 0 the seed is dropped; counter and cursor are cleared all the same. -/
theorem test_seedi_without_key_words :
    (nextOf (exec (.seedi 99) (at_ (cfg .w64 0 .k0 .c1) Quad.zero ⟨5, 0, 0, 0⟩ 3))).map (fun t => (t.K, t.CTR, t.CUR)) =
      some (Quad.zero, Quad.zero, 0) := by decide

/-- R136: KS = 2, answers 5, 7; a further answer stays. -/
theorem test_seeds_loads :
    let t := nextOf (exec .seeds (withSeeds (State.resetOf (cfg .w64 0 .k2 .c4)) [.word 5, .word 7, .word 9]))
    t.map (·.K) = some ⟨5, 7, 0, 0⟩ ∧ t.map (·.KP) = some 0x1bd11bdaa9fc1a20 ∧ t.map (·.env.seeds) = some [.word 9] := by
  decide

/-- R136: answers 5, EOS; one word consumed, nothing changed. -/
theorem test_seeds_exhausted :
    let s := withSeeds (at_ (cfg .w64 0 .k2 .c4) ⟨1, 2, 0, 0⟩ Quad.zero 1) [.word 5, .eos]
    replyOf (exec .seeds s) = some ⟨.seedExhausted, 0⟩ ∧ (nextOf (exec .seeds s)).map State.regs = some s.regs := by decide

/-- T-KEY: a same-value write clears the counter and the cursor. -/
theorem test_keywr_same_value :
    (nextOf (exec (.keywr 3 0) (at_ (cfg .w64 0 .k4 .c4) Quad.zero ⟨1, 0, 0, 0⟩ 2))).map (fun t => (t.CTR, t.CUR)) =
      some (Quad.zero, 0) := by decide

/-- T-KEY: KS = 0. -/
theorem test_keywr_illegal_index :
    replyOf (exec (.keywr 0 1) (State.resetOf (cfg .w64 0 .k0 .c1))) = some ⟨.illegalIndex, 0⟩ := by decide

/-- T-KEY: a hard-wired word reads 0. -/
theorem test_keyrd :
    replyOf (exec (.keyrd 1) (at_ (cfg .w64 0 .k2 .c4) ⟨5, 7, 0, 0⟩ Quad.zero 0)) = some ⟨.ok, 7⟩ ∧
      replyOf (exec (.keyrd 3) (at_ (cfg .w64 0 .k2 .c4) ⟨5, 7, 0, 0⟩ Quad.zero 0)) = some ⟨.ok, 0⟩ := by decide

/-- T-CTR. -/
theorem test_ctrwr :
    (nextOf (exec (.ctrwr 1 6) (at_ (cfg .w64 0 .k4 .c4) Quad.zero ⟨1, 0, 0, 0⟩ 1))).map (fun t => (t.CTR, t.CUR, t.BLK)) =
      some (⟨1, 6, 0, 0⟩, 0, ⟨1, 6, 0, 0⟩) := by decide

theorem test_ctrwr_illegal_index :
    replyOf (exec (.ctrwr 2 5) (State.resetOf (cfg .w64 0 .k4 .c2))) = some ⟨.illegalIndex, 0⟩ := by decide

theorem test_ctrrd :
    replyOf (exec (.ctrrd 0) (at_ (cfg .w64 0 .k4 .c1) Quad.zero ⟨8, 0, 0, 0⟩ 0)) = some ⟨.ok, 8⟩ ∧
      replyOf (exec (.ctrrd 3) (State.resetOf (cfg .w64 0 .k4 .c2))) = some ⟨.ok, 0⟩ := by decide

/-- T-CUR: the full 64-bit compare. -/
theorem test_curwr :
    (nextOf (exec (.curwr 32) (State.resetOf (cfg .w8 0 .k4 .c4)))).map (·.CUR) = some 32 ∧
      replyOf (exec (.curwr 0x100000000000000) (State.resetOf (cfg .w8 0 .k4 .c4))) = some ⟨.illegalOperand, 0⟩ := by decide

theorem test_currd : replyOf (exec .currd (at_ (cfg .w64 0 .k4 .c4) Quad.zero Quad.zero 4)) = some ⟨.ok, 4⟩ := by decide

/-- T-BLK. -/
theorem test_blkrd :
    replyOf (step (State.reset.withFetchWord 32 0x30B)) = some ⟨.ok, 0xee29ec846bd2e40b⟩ := by decide

/-- T-INFO. -/
theorem test_inford_config :
    replyOf (exec (.inford 2) (State.resetOf (cfg .w32 72 .k0 .c3))) = some ⟨.ok, 0x481820⟩ ∧
      replyOf (exec (.inford 2) State.reset) = some ⟨.ok, 0x142440⟩ := by decide

theorem test_inford_max_parity :
    replyOf (exec (.inford 1) (State.resetOf (cfg .w8 13 .k2 .c1))) = some ⟨.ok, 0xff⟩ ∧
      replyOf (exec (.inford 3) State.reset) = some ⟨.ok, 0x1bd11bdaa9fc1a22⟩ := by decide

theorem test_nop : nextOf (exec .nop State.reset) = some (State.reset.respond .ok 0) := by decide

/-- R99: a reserved opcode. -/
theorem test_illegal_command :
    replyOf (step (State.reset.withFetchWord 32 0xD)) = some ⟨.illegalCommand, 0⟩ := by decide

-- PORTS AND ASSEMBLER --------------------------------------------------------------------------------------------------

/-- R108, R136: at the pins SEEDS raises `seed_req` when its work begins, and takes a word only with `seed_ack`. -/
theorem test_pins_seeds :
    let s := atPort (State.resetOf (cfg .w64 0 .k1 .c1)) (.busy ⟨4, 0⟩)
    let s1 := clockEdge ⟨lowPins, true⟩ s
    let s2 := clockEdge ⟨{ lowPins with seedAck := true, seedData := 6 }, false⟩ s1
    (pinsOut false s1).seedReq = true ∧ (pinsOut false s2).seedReq = false ∧
      (clockEdge ⟨lowPins, true⟩ s2).K = ⟨6, 0, 0, 0⟩ := by decide

/-- R345, R108: the least latencies. NEXT is answered right after the edge that accepts it, SEEDS right after the last seed
word or EOS, and the block is ready right after a reset edge. -/
theorem test_pins_least_latency :
    let s := State.resetOf (cfg .w64 0 .k1 .c1)
    let req := atPort s (.seeding true [])
    (clockEdge ⟨{ lowPins with cmdValid := true, cmdWord := 1 }, true⟩ s).port = .responding ⟨.ok, 0⟩ ∧
      (clockEdge ⟨{ lowPins with seedAck := true, seedData := 6 }, true⟩ req).port = .responding ⟨.ok, 0⟩ ∧
      (clockEdge ⟨{ lowPins with seedAck := true, seedEos := true }, true⟩ req).port = .responding ⟨.seedExhausted, 0⟩ ∧
      (clockEdge ⟨{ lowPins with rst := true }, true⟩ req).port = .idle := by decide

/-- R108.3: with a word still to come, `seed_req` is 0 after the answer, however short the latency. -/
theorem test_pins_seed_gap :
    let req := atPort (State.resetOf (cfg .w64 0 .k2 .c1)) (.seeding true [])
    (clockEdge ⟨{ lowPins with seedAck := true, seedData := 6 }, true⟩ req).port = .seeding false [6] := by decide

/-- R105: KEYWR k3, v with a comment, in small letters. -/
theorem test_parse_and_assemble :
    Asm.parse ['k', 'e', 'y', 'w', 'r', ' ', 'k', '3', ',', ' ', '0', 'x', '1', 'F', ' ', ';', 'z'] =
        .line (.keywr 3 0x1F) ∧
      assemble Config.standard (.keywr 3 0x1F) = some [⟨0x00000305, 0x1F⟩] := by decide

/-- R106: the order of DESERIALIZE. -/
theorem test_deserialize_expansion :
    assemble (cfg .w64 20 .k1 .c2) (.deserialize [7, 8, 9, 2]) =
      some [⟨0x005, 7⟩, ⟨0x007, 8⟩, ⟨0x107, 9⟩, ⟨0x009, 2⟩] := by decide

end Sys2Proof.Tests
end

