-- ==== Sys2Proof/Tests/Witnesses.lean ====
section
/-! SUPPORT. For every statement with hypotheses, a concrete state and operands that meet all of them together, clause by
clause, at the boundary values of each clause. -/

namespace Sys2Proof.Tests

open Sys2Proof.Machine

/-- A block with no rounds, 64-bit samples (S = 4), two key words and two counter words. -/
def small : Config := cfg .w64 0 .k2 .c2

/-- A consistent state of it: exhausted block, both counter words at their maximum. -/
def smallEnd : State := at_ small ⟨5, 7, 0, 0⟩ ⟨-1, -1, 0, 0⟩ 4

/-- The same with a command latched. -/
def smallBusy (w : BitVec 32) (d : Word) : State := atPort smallEnd (.busy ⟨w, d⟩)

theorem witness_small_inv : smallEnd.Inv ∧ (State.resetOf small).Inv := by decide

theorem witness_EncodeInvertsDecode :
    (decode ⟨0x305, 9⟩ = some (.keywr 3 9) ∧ readsOperand (.keywr 3 9) = true) ∧
      (decode ⟨0x306, 9⟩ = some (.keyrd 3) ∧ readsOperand (.keyrd 3) = false) := by decide

theorem witness_OpcodeMapSelectsTheDecodedCommand :
    (⟨.KEYWR, 0x00000005, 0xFFFFFCFF⟩ : OpcodeRow) ∈ opcodeMap := by decide

theorem witness_ExactlyThirtyOneWordsDecode :
    (decode ⟨0x30C, 1⟩).isSome = true ∧ (decode ⟨0x40C, 1⟩).isSome = false := by decide

/-- The least and the greatest reserved opcode, the lowest and the highest reserved bit, an index on NOP and on CURRD. -/
theorem witness_ReservedWordsAreRejected :
    smallEnd.env.rst = false ∧ (smallBusy 0xD 0).port = .busy ⟨0xD, 0⟩ ∧
      (0x0D ≤ (0xD#32).toNat % 256 ∧ 0x0D ≤ (0xFF#32).toNat % 256) ∧
      ((0x400#32).toNat / 1024 ≠ 0 ∧ (0x80000001#32).toNat / 1024 ≠ 0) ∧
      ((0x100#32).toNat / 256 % 4 ≠ 0 ∧ (0x100#32).toNat % 256 ∈ [0x00, 0x01, 0x02, 0x03, 0x04, 0x09, 0x0A]) ∧
      ((0x30A#32).toNat / 256 % 4 ≠ 0 ∧ (0x30A#32).toNat % 256 ∈ [0x00, 0x01, 0x02, 0x03, 0x04, 0x09, 0x0A]) := by decide

theorem witness_StepRunsTheLatchedCommand :
    (smallBusy 1 0).env.rst = false ∧ (smallBusy 1 0).port = .busy ⟨1, 0⟩ ∧ decode ⟨1, 0⟩ = some .next := by decide

/-- The last sample of a block, and the exhausted block. -/
theorem witness_NextReturnsTheNextSample :
    (at_ small Quad.zero Quad.zero 3).CUR.toNat < (at_ small Quad.zero Quad.zero 3).cfg.S ∧
      smallEnd.cfg.S ≤ smallEnd.CUR.toNat := by decide

/-- No sample, one sample and the most samples. -/
theorem witness_DiscardMovesCounterAndCursor : (0 : Word) = 0 ∧ (1 : Word) ≠ 0 ∧ (-1 : Word) ≠ 0 := by decide

theorem witness_DiscardEqualsRepeatedNext :
    smallEnd.cursorInRange ∧ (State.resetOf small).cursorInRange ∧ smallEnd.CUR.toNat = smallEnd.cfg.S := by decide

theorem witness_SeediLoadsTheSeed : (0 : Word) = 0 := by decide

/-- KS = 2 with an answer left over, and KS = 0 with none asked for. -/
theorem witness_SeedsLoadsTheKeyFromTheSource :
    ([5, 7] : List Word).length = small.ks ∧
      (withSeeds smallEnd [.word 5, .word 7, .eos]).env.seeds = ([5, 7] : List Word).map .word ++ [.eos] ∧
      ([] : List Word).length = (cfg .w64 0 .k0 .c1).ks ∧
      (State.resetOf (cfg .w64 0 .k0 .c1)).env.seeds = ([] : List Word).map .word ++ [] := by decide

/-- EOS as the first and as the last answer. -/
theorem witness_SeedsFailsWhenTheSourceIsExhausted :
    ([5] : List Word).length < smallEnd.cfg.ks ∧
      (withSeeds smallEnd [.word 5, .eos, .word 9]).env.seeds = ([5] : List Word).map .word ++ .eos :: [.word 9] ∧
      ([] : List Word).length < smallEnd.cfg.ks ∧
      (withSeeds smallEnd [.eos]).env.seeds = ([] : List Word).map .word ++ .eos :: [] ∧
      replyOf (exec .seeds (withSeeds smallEnd [.word 5, .eos, .word 9])) = some ⟨.seedExhausted, 0⟩ ∧
      Status.seedExhausted ≠ .ok := by decide

theorem witness_SeedsWaitsForTheSource :
    ([5] : List Word).length < smallEnd.cfg.ks ∧
      (withSeeds smallEnd [.word 5]).env.seeds = ([5] : List Word).map .word ∧
      (withSeeds smallEnd [.word 5]).env.rst = false ∧ ([] : List Word).length < smallEnd.cfg.ks := by decide

/-- The last implemented and the first unimplemented key word. -/
theorem witness_KeywrWritesOneWordAndRunsTheTail :
    (1 : Fin 4).val < smallEnd.cfg.ks ∧ smallEnd.cfg.ks ≤ (2 : Fin 4).val := by decide

/-- The last implemented and the first unimplemented counter word. -/
theorem witness_CtrwrWritesOneWordAndRecomputesTheBlock :
    (1 : Fin 4).val < smallEnd.cfg.cs ∧ smallEnd.cfg.cs ≤ (2 : Fin 4).val := by decide

/-- S, S + 1, and a value whose low bits are in range. -/
theorem witness_CurwrSetsTheCursor :
    (4 : Word).toNat ≤ smallEnd.cfg.S ∧ smallEnd.cfg.S < (5 : Word).toNat ∧
      smallEnd.cfg.S < (0x100000000000000 : Word).toNat := by decide

theorem witness_InfordReturnsTheInformationRegister :
    (0 : Fin 4) = 0 ∧ (1 : Fin 4) = 1 ∧ (2 : Fin 4) = 2 ∧ (3 : Fin 4) = 3 := by decide

theorem witness_IncAndAdvance_unimplemented : small.cs ≤ (2 : Fin 4).val := by decide

theorem witness_MixIsAddRotateXorAndInvertible : 0 < 64 ∧ 63 < 64 := by decide

theorem witness_RoundMixesThePairsOfItsParity : 0 % 2 = 0 ∧ 7 % 2 = 1 := by decide

theorem witness_EncryptInjectsAfterEveryFourthRoundOnly : (3 + 1) % 4 = 0 ∧ (4 + 1) % 4 ≠ 0 := by decide

/-- The last bit of the last sample of the narrowest and of the widest width. -/
theorem witness_ExtractSelectsTheFieldOfOneWord :
    31 < 256 / Width.w8.bits ∧ 7 < Width.w8.bits ∧ 3 < 256 / Width.w64.bits ∧ 63 < Width.w64.bits := by decide

theorem witness_NextYieldsTheSampleStream :
    (State.resetOf small).Inv ∧ (State.resetOf small).CUR = 0 ∧ (at_ small ⟨5, 7, 0, 0⟩ ⟨-1, -1, 0, 0⟩ 0).Inv := by decide

/-- The least and the greatest cursor of the restoring clause, and cursor 0. -/
theorem witness_SampleStreamIsPeriodic :
    (smallEnd.Inv ∧ 1 ≤ smallEnd.CUR.toNat ∧ smallEnd.CUR.toNat = smallEnd.cfg.S) ∧
      ((at_ small ⟨5, 7, 0, 0⟩ ⟨-1, -1, 0, 0⟩ 1).Inv ∧ 1 ≤ (at_ small ⟨5, 7, 0, 0⟩ ⟨-1, -1, 0, 0⟩ 1).CUR.toNat) ∧
      (State.resetOf small).Inv ∧ (State.resetOf small).CUR = 0 := by decide

theorem witness_CommandsMoveTheStreamPosition : smallEnd.cursorInRange := by decide

theorem witness_ResetStateHasTheStatedValues :
    (cfg .w64 20 .k4 .c4).R = 20 ∧ (cfg .w8 13 .k0 .c1).R = 13 := by decide

theorem witness_StepKeepsTheInvariants :
    (smallBusy 1 0).Inv ∧ (nextOf (step (smallBusy 1 0))).isSome = true := by decide

theorem witness_ConfigurationNeverChanges : (nextOf (step smallEnd)).isSome = true := by decide

theorem witness_ResetEdgeAbandonsTheCommand :
    ({ lowPins with rst := true } : PinsIn).rst = true ∧ lowPins.rst = false ∧
      (⟨lowPins, true⟩ : Edge).finish = true ∧ (⟨lowPins, false⟩ : Edge).finish = false := by decide

theorem witness_ResetStepAbandonsTheCommand :
    ({ smallBusy 1 0 with env := { Env.quiet with rst := true } } : State).env.rst = true := by decide

/-- Each of the four error statuses. -/
theorem witness_FailingCommandChangesNoRegister :
    replyOf (runLatched ⟨0xD, 0⟩ smallEnd) = some ⟨.illegalCommand, 0⟩ ∧
      replyOf (runLatched ⟨0x305, 1⟩ smallEnd) = some ⟨.illegalIndex, 0⟩ ∧
      replyOf (runLatched ⟨0x9, 5⟩ smallEnd) = some ⟨.illegalOperand, 0⟩ ∧
      replyOf (runLatched ⟨0x4, 0⟩ (withSeeds smallEnd [.word 5, .eos])) = some ⟨.seedExhausted, 0⟩ := by decide

/-- A status of each kind, OK among them. -/
theorem witness_ErrorStatusesHaveTheStatedCauses :
    replyOf (runLatched ⟨0x1, 0⟩ smallEnd) = some ⟨.ok, 5⟩ ∧
      replyOf (runLatched ⟨0x207, 1⟩ smallEnd) = some ⟨.illegalIndex, 0⟩ ∧
      replyOf (runLatched ⟨0xFFFFFFFF, 1⟩ smallEnd) = some ⟨.illegalCommand, 0⟩ := by decide

theorem witness_EqualBlocksRespondAlike :
    smallEnd.Inv ∧ (smallBusy 1 0).Inv ∧ engineEq smallEnd (smallBusy 1 0) ∧
      smallEnd.env.seeds = (smallBusy 1 0).env.seeds := by
  refine ⟨by decide, by decide, ?_, by decide⟩
  unfold engineEq
  decide

theorem witness_DeserializeRestoresTheSerializedState :
    smallEnd.Inv ∧ (State.resetOf small).Inv ∧ (State.resetOf small).cfg = smallEnd.cfg := by decide

/-- An idle block that is offered NEXT. -/
def offered : State := { smallEnd with env := { Env.quiet with cmds := [⟨1, 0⟩] } }

theorem witness_ThreeStepsAreOneTransaction :
    offered.port = .idle ∧ offered.env.rst = false ∧ offered.env.rspReady = true ∧ offered.env.cmds = [⟨1, 0⟩] ∧
      (issue ⟨1, 0⟩ { offered with env := { offered.env with cmds := [] } }).isSome = true := by decide

theorem witness_WaitingStepsChangeNothing :
    (smallEnd.env.rst = false ∧ smallEnd.port = .idle ∧ smallEnd.env.cmds = []) ∧
      (let s : State := { atPort smallEnd (.responding ⟨.ok, 1⟩) with env := { Env.quiet with rspReady := false } }
       s.env.rst = false ∧ s.port = .responding ⟨.ok, 1⟩ ∧ s.env.rspReady = false) ∧
      ((atPort smallEnd (.seeding true [5])).port = .seeding true [5] ∧
        (atPort smallEnd (.seeding true [5])).env.seeds = []) := by
  refine ⟨by decide, ?_, by decide⟩
  dsimp only
  decide

theorem witness_CommandsAreLatchedOnlyWhenReady :
    ((pinsOut false smallEnd).cmdReady = true ∧ ({ lowPins with cmdValid := true } : PinsIn).cmdValid = true) ∧
      ((pinsOut lowPins.rst smallEnd).cmdReady = true ∧ lowPins.cmdValid = false) ∧
      ((⟨lowPins, true⟩ : Edge).finish = true ∧ (⟨lowPins, false⟩ : Edge).finish = false) ∧
      (pinsOut false (smallBusy 1 0)).cmdReady = false ∧ (pinsOut true smallEnd).cmdReady = false := by decide

theorem witness_ResponseIsHeldUntilTaken :
    (atPort smallEnd (.responding ⟨.ok, 1⟩)).port = .responding ⟨.ok, 1⟩ ∧ lowPins.rst = false ∧
      lowPins.rspReady = false ∧ ({ lowPins with rspReady := true } : PinsIn).rspReady = true := by decide

theorem witness_SeedPortFollowsItsProtocol :
    lowPins.rst = false ∧ (atPort smallEnd (.seeding true [5])).port = .seeding true [5] ∧
      (atPort smallEnd (.seeding false [5])).port = .seeding false [5] ∧ ([5] : List Word).length < smallEnd.cfg.ks ∧
      (atPort smallEnd (.seeding false [5, 7])).port = .seeding false [5, 7] ∧
      smallEnd.cfg.ks ≤ ([5, 7] : List Word).length ∧ lowPins.seedAck = false ∧ lowPins.seedEos = false ∧
      ({ lowPins with seedAck := true, seedEos := true } : PinsIn).seedAck = true ∧
      ([] : List Word).length + 1 < smallEnd.cfg.ks ∧ smallEnd.cfg.ks ≤ ([5] : List Word).length + 1 ∧
      (⟨lowPins, true⟩ : Edge).finish = true ∧ (⟨lowPins, false⟩ : Edge).finish = false := by decide

/-- The edges of a SEEDS on a block with one key word: work, a late answer, work. -/
def seedEdges : List Edge :=
  [⟨lowPins, false⟩, ⟨lowPins, true⟩, ⟨lowPins, true⟩, ⟨{ lowPins with seedAck := true, seedData := 6 }, false⟩,
    ⟨lowPins, true⟩, ⟨lowPins, true⟩]

theorem witness_PinLevelRunsRefineTheTransaction :
    let s := State.resetOf (cfg .w64 0 .k1 .c1)
    let run := runToResponse seedEdges { s with port := .busy ⟨4, 0⟩ }
    (∀ e ∈ seedEdges, e.pins.rst = false) ∧ s.env.rst = false ∧ run.2 = [.word 6] ∧
      run.1.port = .responding ⟨.ok, 0⟩ := by
  dsimp only
  decide

/-- HOST offers NEXT at every edge and takes every response, SEED answers every request, every work ends at once. -/
def eagerEdge : Edge :=
  ⟨{ lowPins with cmdValid := true, cmdWord := 1, rspReady := true, seedAck := true, seedData := 6 }, true⟩

theorem witness_FairEdgesAnswerEveryCommand :
    FairEdges (fun _ => eagerEdge) smallEnd ∧ HoldsCommand (fun _ => eagerEdge) smallEnd ∧
      (∀ m, 0 ≤ m → ((fun _ => eagerEdge) m : Edge).pins.rst = false) ∧
      (∀ k, 0 ≤ k → k ≤ 0 → ((fun _ => eagerEdge) k : Edge).pins.cmdValid = true) ∧
      (pinsAt (fun _ => eagerEdge) smallEnd 0).cmdReady = true ∧ eagerEdge.pins.cmdValid = true :=
  ⟨⟨fun n _ => ⟨n, Nat.le_refl n, rfl⟩, fun n _ => ⟨n, Nat.le_refl n, rfl⟩, fun n _ => ⟨n, Nat.le_refl n, rfl⟩⟩,
    fun _ _ _ _ => ⟨rfl, rfl⟩, fun _ _ => rfl, fun _ _ _ => rfl, by decide, rfl⟩

/-- HOST comes to offer NOP before the first step, and takes every response. -/
def nopTurns : Nat → Turn
  | 0 => ⟨false, [⟨0, 0⟩], true, [.word 6]⟩
  | _ + 1 => ⟨false, [], true, [.word 6]⟩

/-- The run it gives: acceptance, execution, delivery, waiting; the seed answers queue up unused. -/
def nopRun (n : Nat) : State :=
  let answers : List SeedAnswer := List.replicate n (.word 6)
  match n with
  | 0 => smallEnd
  | 1 => { smallEnd with port := .busy ⟨0, 0⟩, env := { Env.quiet with seeds := answers } }
  | 2 => { smallEnd with port := .responding ⟨.ok, 0⟩, env := { Env.quiet with seeds := answers } }
  | _ + 3 => { smallEnd with env := { Env.quiet with seeds := answers, taken := [⟨.ok, 0⟩] } }

theorem witness_FairTurnsAnswerEveryCommand :
    IsRun nopTurns nopRun ∧ FairTurns nopTurns nopRun ∧ (∀ m, 0 ≤ m → (nopTurns m).rst = false) ∧
      (nopRun 0).port = .idle ∧ (nopRun 0).env.cmds ++ (nopTurns 0).cmds = ⟨0, 0⟩ :: [] := by
  refine ⟨?_, ⟨?_, ?_⟩, ?_, by decide, by decide⟩
  · intro n
    match n with
    | 0 => rfl
    | 1 => rfl
    | 2 => rfl
    | n + 3 =>
      have h : List.replicate (n + 3) (SeedAnswer.word 6) ++ [.word 6] = List.replicate (n + 4) (.word 6) := by
        rw [← List.replicate_succ']
      show step _ = .next { smallEnd with env := { Env.quiet with seeds := List.replicate (n + 4) (.word 6), taken := _ } }
      rw [← h]
      rfl
  · intro n _ _
    exact ⟨n, Nat.le_refl n, by cases n <;> rfl⟩
  · intro n _ _
    exact ⟨n, Nat.le_refl n, by cases n <;> simp [nopTurns]⟩
  · intro m _
    cases m <;> rfl

theorem witness_OnlyLegalConfigurationsAreBuilt :
    (match Config.build 8 (2 ^ 32 - 1) 0 1 with
     | .ok c => some c
     | .error _ => none) = some ⟨.w8, 0xFFFFFFFF, .k0, .c1⟩ := by decide

theorem witness_ReducedKeySizeActsAsZeroPadding : smallEnd.Inv ∧ smallEnd.cfg.ks < 4 := by decide

theorem witness_AssemblerEmitsTheTable : 3 < 4 ∧ 2 ^ 64 - 1 < 2 ^ 64 ∧ 4 ≤ 4 ∧ 2 ^ 64 ≤ 2 ^ 64 := by decide

end Sys2Proof.Tests
end

section
/-! PROOF. Building a block (00_scope.md R6, R8): each check of a parameter against the table of R6 is an `↔`, and
`Config.build` succeeds with `c` exactly when the four numbers are those of `c`. -/

namespace Sys2Proof

/-- `W` is in the table of R6 exactly when it is the number of bits of a width. -/
theorem Width.exists_bits_eq {n : Nat} : (∃ w : Width, w.bits = n) ↔ n = 8 ∨ n = 16 ∨ n = 32 ∨ n = 64 := by
  constructor
  · rintro ⟨w, rfl⟩
    cases w <;> decide
  · rintro (rfl | rfl | rfl | rfl)
    exacts [⟨.w8, rfl⟩, ⟨.w16, rfl⟩, ⟨.w32, rfl⟩, ⟨.w64, rfl⟩]

theorem KeySize.exists_toNat_eq {n : Nat} : (∃ k : KeySize, k.toNat = n) ↔ n ≤ 4 := by
  constructor
  · rintro ⟨k, rfl⟩
    cases k <;> decide
  · intro h
    interval_cases n
    exacts [⟨.k0, rfl⟩, ⟨.k1, rfl⟩, ⟨.k2, rfl⟩, ⟨.k3, rfl⟩, ⟨.k4, rfl⟩]

theorem CounterSize.exists_toNat_eq {n : Nat} : (∃ k : CounterSize, k.toNat = n) ↔ 1 ≤ n ∧ n ≤ 4 := by
  constructor
  · rintro ⟨k, rfl⟩
    cases k <;> decide
  · rintro ⟨hlo, hhi⟩
    interval_cases n
    exacts [⟨.c1, rfl⟩, ⟨.c2, rfl⟩, ⟨.c3, rfl⟩, ⟨.c4, rfl⟩]

namespace Config

theorem widthOf_eq_some {n : Nat} {w : Width} : widthOf n = some w ↔ w.bits = n := by
  constructor
  · intro h
    unfold widthOf at h
    split at h <;> cases h <;> rfl
  · rintro rfl
    cases w <;> rfl

theorem keySizeOf_eq_some {n : Nat} {k : KeySize} : keySizeOf n = some k ↔ k.toNat = n := by
  constructor
  · intro h
    unfold keySizeOf at h
    split at h <;> cases h <;> rfl
  · rintro rfl
    cases k <;> rfl

theorem counterSizeOf_eq_some {n : Nat} {k : CounterSize} : counterSizeOf n = some k ↔ k.toNat = n := by
  constructor
  · intro h
    unfold counterSizeOf at h
    split at h <;> cases h <;> rfl
  · rintro rfl
    cases k <;> rfl

/-- Up to `R_MAX` the 32-bit `R` holds the number of rounds asked for (R6). -/
theorem toNat_ofNat_rounds {r : Nat} (hr : r < 2 ^ 32) : (BitVec.ofNat 32 r).toNat = r := by
  rw [BitVec.toNat_ofNat, Nat.mod_eq_of_lt hr]

/-- The checks of `build` in order: it answers a configuration exactly when none of the four refuses (R8). -/
theorem build_eq_ok {w r ks cs : Nat} {c : Config} :
    build w r ks cs = .ok c ↔ c.W.bits = w ∧ c.rounds = r ∧ c.ks = ks ∧ c.cs = cs := by
  constructor
  · intro h
    unfold build at h
    split at h
    · cases h
    next W hW =>
    split at h
    case isFalse => cases h
    case isTrue hr =>
    split at h
    · cases h
    next KS hKS =>
    split at h
    · cases h
    next CS hCS =>
    cases h
    exact ⟨widthOf_eq_some.mp hW, toNat_ofNat_rounds hr, keySizeOf_eq_some.mp hKS, counterSizeOf_eq_some.mp hCS⟩
  · rintro ⟨hW, rfl, hKS, hCS⟩
    have hr : c.rounds < 2 ^ 32 := c.R.isLt
    have hR : BitVec.ofNat 32 c.rounds = c.R := by simp [rounds]
    simp only [build, widthOf_eq_some.mpr hW, hr, if_true, keySizeOf_eq_some.mpr hKS, counterSizeOf_eq_some.mpr hCS, hR]

/-- Four numbers are the parameters of a configuration exactly when they are in the table of R6. -/
theorem exists_parameters_eq {w r ks cs : Nat} :
    (∃ c : Config, c.W.bits = w ∧ c.rounds = r ∧ c.ks = ks ∧ c.cs = cs) ↔
      (w = 8 ∨ w = 16 ∨ w = 32 ∨ w = 64) ∧ r ≤ 2 ^ 32 - 1 ∧ ks ≤ 4 ∧ 1 ≤ cs ∧ cs ≤ 4 := by
  rw [← Width.exists_bits_eq, ← KeySize.exists_toNat_eq, ← CounterSize.exists_toNat_eq]
  constructor
  · rintro ⟨c, hW, rfl, hKS, hCS⟩
    exact ⟨⟨c.W, hW⟩, Nat.le_pred_of_lt c.R.isLt, ⟨c.KS, hKS⟩, ⟨c.CS, hCS⟩⟩
  · rintro ⟨⟨W, hW⟩, hr, ⟨KS, hKS⟩, ⟨CS, hCS⟩⟩
    exact ⟨⟨W, BitVec.ofNat 32 r, KS, CS⟩, hW, toNat_ofNat_rounds (by omega), hKS, hCS⟩

/-- Settles O56: `build` answers `c` exactly when the parameters are those of `c`, and the table of R6 lists the
parameters that some configuration has. -/
theorem onlyLegalConfigurationsAreBuilt : Obligations.OnlyLegalConfigurationsAreBuilt := by
  intro w r ks cs
  exact ⟨fun _ h => build_eq_ok.mp h, by simp only [build_eq_ok, exists_parameters_eq]⟩

end Config

end Sys2Proof
end

section
/-! PROOF. The counter file as an integer (00_scope.md R12, 41_counter.md R160 to R163): the words are the digits of its
value in base 2^64, the carry chain adds its carry to the value, and so INC adds one modulo 2^(64·CS). -/

namespace Sys2Proof

theorem valOfWords_lt (ws : List Word) : valOfWords ws < 2 ^ (64 * ws.length) := by
  induction ws with
  | nil => simp [valOfWords]
  | cons w ws ih =>
    have hw := w.isLt
    rw [List.length_cons, Nat.mul_succ, Nat.pow_add, valOfWords]
    omega

/-- Digit `i` of the value is word `i`, and 0 past the last word. -/
theorem ofNat_valOfWords_div (ws : List Word) (i : Nat) :
    BitVec.ofNat 64 (valOfWords ws / 2 ^ (64 * i)) = ws.getD i 0 := by
  induction ws generalizing i with
  | nil => simp [valOfWords]
  | cons w ws ih =>
    cases i with
    | zero => exact BitVec.eq_of_toNat_eq (by simp [valOfWords, w.isLt])
    | succ i =>
      have hdrop : valOfWords (w :: ws) / 2 ^ 64 = valOfWords ws := by
        rw [valOfWords, Nat.add_mul_div_left _ _ (by decide), Nat.div_eq_of_lt w.isLt, Nat.zero_add]
      rw [Nat.mul_succ, Nat.add_comm, Nat.pow_add, ← Nat.div_div_eq_div_mul, hdrop, ih, List.getD_cons_succ]

namespace Quad

theorem val_lt (n : Nat) (q : Quad) : q.val n < 2 ^ (64 * n) :=
  Nat.lt_of_lt_of_le (valOfWords_lt _) (Nat.pow_le_pow_right (by decide) (by simp))

end Quad

namespace Machine

theorem get_ctrOfVal (n v : Nat) (i : Fin 4) :
    (ctrOfVal n v).get i = if i.val < n then BitVec.ofNat 64 (v / 2 ^ (64 * i.val)) else 0 := by
  rw [ctrOfVal, Quad.get_hardwire]
  fin_cases i <;> simp [Quad.get]

/-- The value determines the implemented words. -/
theorem ctrOfVal_val (n : Nat) (q : Quad) : ctrOfVal n (q.val n) = q.hardwire n := by
  refine Quad.ext_get fun i => ?_
  rw [get_ctrOfVal, Quad.get_hardwire]
  split
  case isTrue hi =>
    rw [Quad.val, ofNat_valOfWords_div, List.getD_eq_getElem?_getD, List.getElem?_take_of_lt hi]
    fin_cases i <;> rfl
  case isFalse => rfl

theorem length_ctrIndices (c : Config) : (ctrIndices c).length = c.cs := by
  obtain ⟨W, R, KS, CS⟩ := c
  cases CS <;> rfl

theorem nodup_ctrIndices (c : Config) : (ctrIndices c).Nodup :=
  (show ([0, 1, 2, 3] : List (Fin 4)).Nodup by decide).sublist (List.take_sublist _ _)

theorem val_eq_valOfWords_ctrIndices (c : Config) (q : Quad) : q.val c.cs = valOfWords ((ctrIndices c).map q.get) := by
  rw [ctrIndices, List.map_take]
  rfl

/-- A word wraps to 0 exactly when it carries into the next (R161). -/
theorem toNat_add_one_add_carry (w : Word) : (w + 1).toNat + 2 ^ 64 * (w + 1 == 0).toNat = w.toNat + 1 := by
  by_cases h : w + 1 = 0
  · simp only [h, beq_self_eq_true, Bool.toNat_true]
    bv_omega
  · simp only [beq_eq_false_iff_ne.mpr h, Bool.toNat_false]
    bv_omega

/-- The carry chain over distinct words adds the carry to the integer they hold (R161, R162). -/
theorem valOfWords_ripple {is : List (Fin 4)} (his : is.Nodup) (carry : Bool) (q : Quad) :
    valOfWords (is.map (ripple is carry q).get) =
      (valOfWords (is.map q.get) + carry.toNat) % 2 ^ (64 * is.length) := by
  induction is generalizing carry q with
  | nil => simp [valOfWords, Nat.mod_one]
  | cons i is ih =>
    obtain ⟨hi, his⟩ := List.nodup_cons.mp his
    cases carry with
    | false => simpa [ripple_false] using (Nat.mod_eq_of_lt (valOfWords_lt ((i :: is).map q.get))).symm
    | true =>
      have hrest : is.map (q.set i (q.get i + 1)).get = is.map q.get :=
        List.map_congr_left fun j hj => by
          rw [Quad.get_set, if_neg (fun h : j = i => hi (h ▸ hj))]
      have hripple : ripple (i :: is) true q = ripple is (q.get i + 1 == 0) (q.set i (q.get i + 1)) := rfl
      rw [hripple, List.map_cons, List.map_cons, valOfWords, valOfWords, ih his, hrest, ripple_get_of_not_mem hi,
        Quad.get_set, if_pos rfl, List.length_cons, Nat.mul_succ, Nat.add_comm (64 * _), Nat.pow_add]
      have hsplit : (q.get i).toNat + 2 ^ 64 * valOfWords (is.map q.get) + true.toNat =
          (q.get i + 1).toNat + 2 ^ 64 * (valOfWords (is.map q.get) + (q.get i + 1 == 0).toNat) := by
        have := toNat_add_one_add_carry (q.get i)
        rw [Bool.toNat_true]
        omega
      rw [hsplit, Nat.mod_mul, Nat.add_mul_mod_self_left, Nat.mod_eq_of_lt (q.get i + 1).isLt,
        Nat.add_mul_div_left _ _ (by decide), Nat.div_eq_of_lt (q.get i + 1).isLt, Nat.zero_add]

/-- INC adds one modulo the range of the counter (R160, R163). -/
theorem inc_val (c : Config) (q : Quad) : (inc c q).val c.cs = (q.val c.cs + 1) % counterRange c := by
  rw [val_eq_valOfWords_ctrIndices, val_eq_valOfWords_ctrIndices, inc, valOfWords_ripple (nodup_ctrIndices c),
    length_ctrIndices]
  rfl

end Machine

end Sys2Proof
end

section
/-! PROOF. NEXT from a state that meets the invariants (10_state.md R37, R44, 44_engine.md R250): its effect apart from
the response is `State.afterNext`, which keeps the invariants and moves the stream position by one, and its response is
the sample of the numbered stream (43_output_extractor.md R233) at the cursor. -/

namespace Sys2Proof.Machine

/-- `S = 256 / W` (00_scope.md R7). -/
theorem S_eq_div (c : Config) : c.S = 256 / c.W.bits := by
  change c.W.S = _
  cases c.W <;> decide

theorem S_pos (c : Config) : 0 < c.S := Nat.two_pow_pos _

/-- `S` is at most 32, so that `S + 1` fits in the six bits of CUR (R36). -/
theorem S_le (c : Config) : c.S ≤ 32 := by
  change c.W.S ≤ _
  cases c.W <;> decide

namespace State

theorem ctrVal_lt (s : State) : s.ctrVal < counterRange s.cfg := s.CTR.val_lt s.cfg.cs

theorem ctrVal_nextBlock (s : State) : s.nextBlock.ctrVal = (s.ctrVal + 1) % counterRange s.cfg :=
  inc_val s.cfg s.CTR

section Inv
variable {s : State} (h : s.Inv)
include h

theorem Inv.keyWords_eq : s.keyWords = s.K := by
  obtain ⟨-, -, -, ⟨hK, -⟩, -⟩ := h
  exact Quad.hardwire_eq_self hK

theorem Inv.ctrWords_eq : s.ctrWords = s.CTR := by
  obtain ⟨-, -, -, ⟨-, hCTR⟩, -⟩ := h
  exact Quad.hardwire_eq_self hCTR

/-- The counter value determines the counter file. -/
theorem Inv.CTR_eq : s.CTR = ctrOfVal s.cfg.cs s.ctrVal := by
  rw [ctrVal, ctrOfVal_val]
  exact h.ctrWords_eq.symm

/-- The samples of the block in hand are the first of the numbered stream. -/
theorem Inv.sample_eq {n : Nat} (hn : n < s.cfg.S) : s.sample n = streamSample s n := by
  obtain ⟨hKP, hBLK, -⟩ := id h
  rw [sample, streamSample, Nat.div_eq_of_lt hn, Nat.mod_eq_of_lt hn, Nat.add_zero, Nat.mod_eq_of_lt s.ctrVal_lt,
    ← h.CTR_eq, h.keyWords_eq, ← hKP, ← hBLK]

theorem Inv.port {p : Port} (hp : p.wf s.cfg = true) : State.Inv { s with port := p } := by
  obtain ⟨hKP, hBLK, hCUR, hzero, -⟩ := h
  exact ⟨hKP, hBLK, hCUR, hzero, hp⟩

theorem Inv.cursor {p : BitVec 6} (hp : p.toNat ≤ s.cfg.S) : State.Inv { s with CUR := p } := by
  obtain ⟨hKP, hBLK, -, hzero, hport⟩ := h
  exact ⟨hKP, hBLK, hp, hzero, hport⟩

theorem Inv.nextBlock : s.nextBlock.Inv := by
  obtain ⟨hKP, -, hCUR, ⟨hK, hCTR⟩, hport⟩ := id h
  have hinc : ∀ i : Fin 4, s.cfg.cs ≤ i.val → (inc s.cfg s.CTR).get i = 0 := fun i hi =>
    (inc_get_unimplemented hi).trans (hCTR i hi)
  refine ⟨hKP, ?_, hCUR, ⟨hK, hinc⟩, hport⟩
  change encrypt ((inc s.cfg s.CTR).hardwire s.cfg.cs) s.keyWords s.KP s.cfg.rounds = _
  rw [Quad.hardwire_eq_self hinc, h.keyWords_eq]
  rfl

end Inv

/-- The effect of NEXT apart from its response (R250). -/
def afterNext (s : State) : State :=
  if s.CUR.toNat < s.cfg.S then { s with CUR := s.CUR + 1 } else { s.nextBlock with CUR := 1 }

section afterNext
variable (s : State)

theorem afterNext_of_lt {s : State} (h : s.CUR.toNat < s.cfg.S) : s.afterNext = { s with CUR := s.CUR + 1 } := if_pos h

theorem afterNext_of_exhausted {s : State} (h : s.cfg.S ≤ s.CUR.toNat) :
    s.afterNext = { s.nextBlock with CUR := 1 } := if_neg (Nat.not_lt.mpr h)

/-- Below `S` the cursor moves on without wrapping. -/
theorem toNat_CUR_add_one {s : State} (h : s.CUR.toNat < s.cfg.S) : (s.CUR + 1).toNat = s.CUR.toNat + 1 := by
  have := S_le s.cfg
  bv_omega

@[simp] theorem afterNext_cfg : s.afterNext.cfg = s.cfg := by unfold afterNext; split <;> rfl
@[simp] theorem afterNext_K : s.afterNext.K = s.K := by unfold afterNext; split <;> rfl

/-- The port takes no part in what NEXT does. -/
theorem afterNext_port_update (p : Port) : afterNext { s with port := p } = { s.afterNext with port := p } := by
  unfold afterNext
  split <;> rfl

theorem one_le_CUR_afterNext : 1 ≤ s.afterNext.CUR.toNat := by
  by_cases h : s.CUR.toNat < s.cfg.S
  · rw [afterNext_of_lt h, toNat_CUR_add_one h]
    omega
  · rw [afterNext_of_exhausted (by omega)]
    exact Nat.le_refl 1

/-- NEXT answers with the sample just before the new cursor. -/
theorem exec_next :
    exec .next s = .next (s.afterNext.respond .ok (s.afterNext.sample (s.afterNext.CUR.toNat - 1))) := by
  change execNext s = _
  by_cases h : s.CUR.toNat < s.cfg.S
  · rw [execNext, if_pos h, afterNext_of_lt h]
    dsimp only
    rw [toNat_CUR_add_one h, Nat.add_sub_cancel]
    rfl
  · rw [execNext, if_neg h, afterNext_of_exhausted (by omega)]
    rfl

variable {s}

theorem Inv.afterNext (h : s.Inv) : s.afterNext.Inv := by
  by_cases hlt : s.CUR.toNat < s.cfg.S
  · rw [afterNext_of_lt hlt]
    exact h.cursor (by rw [toNat_CUR_add_one hlt]; omega)
  · rw [afterNext_of_exhausted (by omega)]
    exact h.nextBlock.cursor (S_pos s.cfg)

/-- NEXT moves the stream position by one (R44). -/
theorem streamPos_afterNext (h : s.cursorInRange) : streamPos s.afterNext = (streamPos s + 1) % period s.cfg := by
  by_cases hlt : s.CUR.toNat < s.cfg.S
  · rw [afterNext_of_lt hlt, streamPos, streamPos, Nat.mod_add_mod, Nat.add_assoc, ← toNat_CUR_add_one hlt]
    rfl
  · have hCUR : s.CUR.toNat = s.cfg.S := Nat.le_antisymm h (by omega)
    rw [afterNext_of_exhausted (by omega), streamPos, streamPos, Nat.mod_add_mod, hCUR, ← Nat.succ_mul]
    change (s.nextBlock.ctrVal * s.cfg.S + 1) % period s.cfg = _
    rw [ctrVal_nextBlock, period, ← Nat.mod_add_mod, Nat.mul_mod_mul_right, Nat.mod_mod, ← Nat.mul_mod_mul_right,
      Nat.mod_add_mod]

/-- The next block starts `S` samples further on in the numbered stream. -/
theorem streamSample_nextBlock (s : State) (k : Nat) : streamSample s.nextBlock k = streamSample s (s.cfg.S + k) := by
  have hblock : (s.nextBlock.ctrVal + k / s.cfg.S) % counterRange s.cfg =
      (s.ctrVal + (s.cfg.S + k) / s.cfg.S) % counterRange s.cfg := by
    rw [ctrVal_nextBlock, Nat.mod_add_mod, Nat.add_div_left k (S_pos s.cfg), Nat.add_assoc, Nat.add_comm 1]
  rw [streamSample, streamSample, ← hblock, Nat.add_mod_left]
  rfl

/-- The stream from the sample just answered on is the stream from the cursor on before NEXT. -/
theorem streamSample_afterNext (h : s.cursorInRange) (k : Nat) :
    streamSample s.afterNext (s.afterNext.CUR.toNat - 1 + k) = streamSample s (s.CUR.toNat + k) := by
  by_cases hlt : s.CUR.toNat < s.cfg.S
  · rw [afterNext_of_lt hlt]
    dsimp only
    rw [toNat_CUR_add_one hlt, Nat.add_sub_cancel]
    rfl
  · have hCUR : s.CUR.toNat = s.cfg.S := Nat.le_antisymm h (by omega)
    rw [afterNext_of_exhausted (by omega), hCUR, ← streamSample_nextBlock]
    exact congrArg (streamSample s.nextBlock) (Nat.zero_add k)

/-- The answer to NEXT is the sample of the numbered stream at the cursor (R233). -/
theorem Inv.exec_next (h : s.Inv) :
    exec .next s = .next (s.afterNext.respond .ok (streamSample s s.CUR.toNat)) := by
  obtain ⟨-, -, hCUR, -⟩ := id h
  have hpos := s.one_le_CUR_afterNext
  obtain ⟨-, -, hle, -⟩ := h.afterNext
  rw [State.exec_next, h.afterNext.sample_eq (by omega), ← Nat.add_zero (_ - 1), streamSample_afterNext hCUR,
    Nat.add_zero]

end afterNext

end State

end Sys2Proof.Machine
end

section
/-! PROOF. The period of the sample stream (10_state.md R45). The responses to NEXT are the numbered stream from the
cursor on, and the numbered stream is periodic because the counter is. A period of NEXT commands returns to the same
stream position, and with a cursor of at least 1 the position, the key and the configuration determine the registers. -/

namespace Sys2Proof.Machine

/-- A command whose instruction responds is one transaction (30_encoding.md R91 to R93). -/
theorem issue_of_exec {c : Command} {i : Instr} {s t : State} {r : Response} (hc : decode c = some i)
    (ht : exec i { s with port := .busy c } = .next t) (hr : t.port = .responding r) :
    issue c s = some (r, { t with port := .idle }) := by
  rw [issue, runLatched_of_decode hc, ht]
  dsimp only
  rw [hr]

/-- NEXT as one transaction, from a state that meets the invariants. -/
theorem issue_next {s : State} (h : s.Inv) :
    issue (encode .next) s = some (⟨.ok, streamSample s s.CUR.toNat⟩, { s.afterNext with port := .idle }) := by
  have hbusy : State.Inv { s with port := .busy (encode .next) } := h.port rfl
  rw [issue_of_exec (i := .next) rfl hbusy.exec_next rfl, State.afterNext_port_update]
  rfl

/-- The responses to NEXT are the numbered stream from the cursor on (43_output_extractor.md R233). -/
theorem issueAll_next {s : State} (h : s.Inv) (k : Nat) :
    (issueAll (List.replicate k (encode .next)) s).1 =
      (List.range k).map fun j => ⟨.ok, streamSample s (s.CUR.toNat + j)⟩ := by
  induction k generalizing s with
  | zero => rfl
  | succ k ih =>
    have hstream (j : Nat) :
        streamSample s.afterNext (s.afterNext.CUR.toNat + j) = streamSample s (s.CUR.toNat + (j + 1)) := by
      have hpos := s.one_le_CUR_afterNext
      have hj : s.afterNext.CUR.toNat + j = s.afterNext.CUR.toNat - 1 + (j + 1) := by omega
      obtain ⟨-, -, hCUR, -⟩ := h
      rw [hj, State.streamSample_afterNext hCUR]
    rw [List.replicate_succ, issueAll, issue_next h, List.range_succ_eq_map, List.map_cons, List.map_map]
    refine congrArg (List.cons _) ((ih (h.afterNext.port rfl)).trans (List.map_congr_left fun j _ => ?_))
    exact congrArg (Response.mk .ok) (hstream j)

/-- `n` NEXT commands keep the invariants, the key and the configuration, and move the stream position by `n` (R44). -/
theorem execAll_next {s : State} (h : s.Inv) (n : Nat) :
    ∃ t, execAll (List.replicate n .next) s = .next t ∧ t.Inv ∧ t.cfg = s.cfg ∧ t.K = s.K ∧
      (1 ≤ s.CUR.toNat → 1 ≤ t.CUR.toNat) ∧ streamPos t = (streamPos s + n) % period s.cfg := by
  induction n generalizing s with
  | zero => exact ⟨s, rfl, h, rfl, rfl, id, (Nat.mod_mod _ _).symm⟩
  | succ n ih =>
    obtain ⟨-, -, hCUR, -⟩ := id h
    let a : State := s.afterNext.respond .ok (streamSample s s.CUR.toNat)
    have ha : a.Inv := h.afterNext.port rfl
    have hpos : 1 ≤ a.CUR.toNat := s.one_le_CUR_afterNext
    have hstep : streamPos a = (streamPos s + 1) % period s.cfg := State.streamPos_afterNext hCUR
    obtain ⟨t, hrun, ht, hcfg, hK, htpos, htstream⟩ := ih ha
    refine ⟨t, ?_, ht, hcfg.trans s.afterNext_cfg, hK.trans s.afterNext_K, fun _ => htpos hpos, ?_⟩
    · rw [List.replicate_succ, execAll, h.exec_next]
      exact hrun
    · have hacfg : a.cfg = s.cfg := s.afterNext_cfg
      rw [htstream, hstep, hacfg, Nat.mod_add_mod, Nat.add_assoc, Nat.add_comm 1]

/-- Two positions with offset 1 to `S` in one of `r` blocks are equal modulo `r * S` only if they are the same. -/
theorem eq_and_eq_of_mul_add_mod_eq {r S v w c d : Nat} (hv : v < r) (hw : w < r) (hc1 : 1 ≤ c) (hc : c ≤ S)
    (hd1 : 1 ≤ d) (hd : d ≤ S) (h : (v * S + c) % (r * S) = (w * S + d) % (r * S)) : v = w ∧ c = d := by
  obtain ⟨c, rfl⟩ := Nat.exists_eq_add_of_le' hc1
  obtain ⟨d, rfl⟩ := Nat.exists_eq_add_of_le' hd1
  have hlt {x e : Nat} (hx : x < r) (he : e + 1 ≤ S) : x * S + e < r * S :=
    calc x * S + e < (x + 1) * S := by rw [Nat.succ_mul]; omega
      _ ≤ r * S := Nat.mul_le_mul_right S hx
  have heq : v * S + c = w * S + d := (Nat.ModEq.add_right_cancel' 1 h).eq_of_lt_of_lt (hlt hv hc) (hlt hw hd)
  have hmod := congrArg (· % S) heq
  simp only [Nat.mul_add_mod_self_right, Nat.mod_eq_of_lt hc, Nat.mod_eq_of_lt hd] at hmod
  have hvw : v * S = w * S := by omega
  exact ⟨Nat.eq_of_mul_eq_mul_right (by omega) hvw, by omega⟩

/-- The block and the cursor are the digits of the stream position, when the cursor is counted from 1. -/
theorem eq_of_streamPos_eq {s t : State} (hcfg : t.cfg = s.cfg) (hs : s.cursorInRange) (ht : t.cursorInRange)
    (hs1 : 1 ≤ s.CUR.toNat) (ht1 : 1 ≤ t.CUR.toNat) (hpos : streamPos t = streamPos s) :
    t.ctrVal = s.ctrVal ∧ t.CUR = s.CUR := by
  have htlt := t.ctrVal_lt
  rw [State.cursorInRange, hcfg] at ht
  rw [streamPos, streamPos, hcfg] at hpos
  rw [hcfg] at htlt
  obtain ⟨hval, hCUR⟩ := eq_and_eq_of_mul_add_mod_eq htlt s.ctrVal_lt ht1 ht hs1 hs hpos
  exact ⟨hval, BitVec.eq_of_toNat_eq hCUR⟩

/-- The key, the configuration and the stream position determine the registers when the cursor is at least 1. -/
theorem regs_eq_of_streamPos_eq {s t : State} (hs : s.Inv) (ht : t.Inv) (hcfg : t.cfg = s.cfg) (hK : t.K = s.K)
    (hs1 : 1 ≤ s.CUR.toNat) (ht1 : 1 ≤ t.CUR.toNat) (hpos : streamPos t = streamPos s) : t.regs = s.regs := by
  obtain ⟨hKPs, hBLKs, hCURs, -⟩ := id hs
  obtain ⟨hKPt, hBLKt, hCURt, -⟩ := id ht
  obtain ⟨hval, hCUR⟩ := eq_of_streamPos_eq hcfg hCURs hCURt hs1 ht1 hpos
  have hCTR : t.CTR = s.CTR := by rw [ht.CTR_eq, hs.CTR_eq, hcfg, hval]
  have hKP : t.KP = s.KP := by rw [hKPt, hKPs, hK]
  have hBLK : t.BLK = s.BLK := by rw [hBLKt, hBLKs, hCTR, hK, hKP, hcfg]
  rw [State.regs, State.regs, hK, hKP, hCTR, hBLK, hCUR]

/-- The numbered stream repeats after a period (R45). -/
theorem streamSample_add_period (s : State) (k : Nat) : streamSample s (k + period s.cfg) = streamSample s k := by
  have hblock : (s.ctrVal + (k + period s.cfg) / s.cfg.S) % counterRange s.cfg =
      (s.ctrVal + k / s.cfg.S) % counterRange s.cfg := by
    rw [period, Nat.add_mul_div_right _ _ (S_pos s.cfg), ← Nat.add_assoc, Nat.add_mod_right]
  rw [streamSample, hblock, period, Nat.add_mul_mod_self_right]
  rfl

/-- `2^(64·CS) · S = 2^(64·CS + LOG2S)` (R45). -/
theorem period_eq_two_pow (c : Config) : period c = 2 ^ (64 * c.cs + c.log2S) := (Nat.pow_add _ _ _).symm

/-- Settles O36: the responses are the numbered stream from the cursor on, and a period of them returns to the same
stream position. -/
theorem sampleStreamIsPeriodic : Obligations.SampleStreamIsPeriodic := by
  intro s n
  have hn : n = period s.cfg := by rw [period, S_eq_div]; rfl
  clear_value n
  subst hn
  refine ⟨period_eq_two_pow s.cfg, fun h k => ?_, fun h h1 => ?_, streamSample_add_period s⟩
  · have hrepeat := streamSample_add_period s (s.CUR.toNat + k)
    exact ⟨by simp [issueAll_next h], by simp [issueAll_next h, ← Nat.add_assoc, hrepeat]⟩
  · obtain ⟨t, hrun, ht, hcfg, hK, ht1, hpos⟩ := execAll_next h (period s.cfg)
    have hback : streamPos t = streamPos s := by
      rw [hpos, Nat.add_mod_right]
      exact Nat.mod_mod _ _
    exact ⟨t, hrun, regs_eq_of_streamPos_eq h ht hcfg hK h1 (ht1 h1) hback⟩

end Sys2Proof.Machine
end

section
/-! PROOF. The reset state (10_state.md R43): the block of a zero key and counter for the two known numbers of rounds
(42_mixing_network.md R197), the fields of INFO_CONFIG as a sum (10_state.md R41), and SEEDI 0 (40_key_schedule.md
R135). -/

namespace Sys2Proof.Machine

/-- The source's known answer for a zero key and counter, R = 20 (T-KAT-20-ZERO). -/
theorem encrypt_zero_20 : encrypt Quad.zero Quad.zero 0x1BD11BDAA9FC1A22 20 =
    ⟨0x09218ebde6c85537, 0x55941f5266d86105, 0x4bd25e16282434dc, 0xee29ec846bd2e40b⟩ := by decide

/-- The source's known answer for a zero key and counter, R = 13 (T-KAT-13-ZERO). -/
theorem encrypt_zero_13 : encrypt Quad.zero Quad.zero 0x1BD11BDAA9FC1A22 13 =
    ⟨0x4071fabee1dc8e05, 0x02ed3113695c9c62, 0x397311b5b89f9d49, 0xe21292c3258024bc⟩ := by decide

theorem bits_le (w : Width) : w.bits ≤ 64 := by cases w <;> decide

theorem infoMax_toNat (c : Config) : (infoMax c).toNat = 2 ^ c.W.bits - 1 := by
  have hle : 2 ^ c.W.bits ≤ 2 ^ 64 := Nat.pow_le_pow_right (by decide) (bits_le c.W)
  rw [infoMax, zext64, BitVec.toNat_setWidth, BitVec.toNat_allOnes, Nat.mod_eq_of_lt (by omega)]

/-- A field above bit `i` and a value below it share no bit, so their union is their sum. -/
theorem toNat_shiftLeft_or {a b : Word} {m n i : Nat} (ha : a.toNat = m) (hb : b.toNat = n) (hn : n < 2 ^ i)
    (hm : m * 2 ^ i < 2 ^ 64) : (a <<< i ||| b).toNat = m * 2 ^ i + n := by
  rw [BitVec.toNat_or, BitVec.toNat_shiftLeft, ha, hb, Nat.shiftLeft_eq, Nat.mod_eq_of_lt hm, ← Nat.shiftLeft_eq,
    Nat.shiftLeft_add_eq_or_of_lt hn]

/-- The fields of INFO_CONFIG (R41). -/
theorem infoConfig_toNat (c : Config) :
    (infoConfig c).toNat = c.R.toNat * 2 ^ 16 + c.cs * 2 ^ 11 + c.ks * 2 ^ 8 + c.W.bits := by
  have hR := c.R.isLt
  have hW := bits_le c.W
  have hks : c.ks ≤ 4 := KeySize.exists_toNat_eq.mp ⟨c.KS, rfl⟩
  have hcs : c.cs ≤ 4 := (CounterSize.exists_toNat_eq.mp ⟨c.CS, rfl⟩).2
  have toNat_small {n : Nat} (hn : n ≤ 64) : (BitVec.ofNat 64 n).toNat = n := Nat.mod_eq_of_lt (by omega)
  have hRnat : (zext64 c.R).toNat = c.R.toNat := BitVec.toNat_setWidth_of_le (by decide)
  have h8 := toNat_shiftLeft_or (i := 8) (toNat_small (hks.trans (by decide))) (toNat_small hW) (by omega) (by omega)
  have h11 := toNat_shiftLeft_or (i := 11) (toNat_small (hcs.trans (by decide))) h8 (by omega) (by omega)
  have h16 := toNat_shiftLeft_or (i := 16) hRnat h11 (by omega) (by omega)
  rw [infoConfig, BitVec.or_assoc, BitVec.or_assoc, h16]
  omega

theorem hardwire_zero (n : Nat) : Quad.zero.hardwire n = Quad.zero :=
  Quad.hardwire_eq_self fun i _ => by fin_cases i <;> rfl

/-- Loading a zero key leaves the registers of the reset state (R132, R43). -/
theorem loadKey_regs_of_zero (s : State) {ws : List Word} (hws : Quad.ofList ws = Quad.zero) :
    (s.loadKey ws).regs = (State.resetOf s.cfg).regs := by
  rw [State.loadKey, hws]
  simp [State.regs, State.keyChangeTail, State.currentBlock, State.keyWords, State.ctrWords, hardwire_zero,
    State.resetOf]

/-- SEEDI 0 leaves the registers of the reset state (R43, R135). -/
theorem exec_seedi_zero (s : State) : ∃ t, exec (.seedi 0) s = .next t ∧ t.regs = (State.resetOf s.cfg).regs := by
  have hzero : Quad.ofList (if 1 ≤ s.cfg.ks then [0] else []) = Quad.zero := by split <;> rfl
  exact ⟨_, rfl, loadKey_regs_of_zero s hzero⟩

/-- Settles O38: the rows of R43, and SEEDI 0 loads a zero key. -/
theorem resetStateHasTheStatedValues : Obligations.ResetStateHasTheStatedValues := by
  intro c s
  have hblock {r : BitVec 32} (hr : c.R = r) : s.BLK = encrypt Quad.zero Quad.zero 0x1BD11BDAA9FC1A22 r.toNat := by
    subst hr
    rfl
  exact ⟨rfl, rfl, rfl, rfl, rfl, fun h => (hblock h).trans encrypt_zero_20,
    fun h => (hblock h).trans encrypt_zero_13, rfl, infoMax_toNat c, infoConfig_toNat c, rfl, rfl, rfl, exec_seedi_zero s⟩

end Sys2Proof.Machine
end

section
/-! PROOF. The decoder by fields (30_encoding.md R94, R98 to R101). A word that decodes has RSV 0, the opcode of its
command, and IDX 0 unless the command uses it; a row of the opcode map selects a word under the same conditions, and a
word with a reserved opcode or a reserved bit meets none of them. -/

namespace Sys2Proof

/-- The OPC column of R98. -/
def Mnemonic.opcode : Mnemonic → BitVec 8
  | .NOP => 0x00
  | .NEXT => 0x01
  | .DISCARD => 0x02
  | .SEEDI => 0x03
  | .SEEDS => 0x04
  | .KEYWR => 0x05
  | .KEYRD => 0x06
  | .CTRWR => 0x07
  | .CTRRD => 0x08
  | .CURWR => 0x09
  | .CURRD => 0x0A
  | .BLKRD => 0x0B
  | .INFORD => 0x0C

/-- The "IDX used" column of R98. -/
def Mnemonic.usesIndex : Mnemonic → Bool
  | .KEYWR | .KEYRD | .CTRWR | .CTRRD | .BLKRD | .INFORD => true
  | _ => false

/-- The conditions under which a word selects a command: RSV 0, its opcode, and IDX 0 where it uses none (R99, R100). -/
def Mnemonic.Selects (m : Mnemonic) (w : BitVec 32) : Prop :=
  rsvField w = 0 ∧ opcField w = m.opcode ∧ (m.usesIndex = true ∨ idxField w = 0)

section fields
variable (w v : BitVec 32)

theorem opcField_toNat : (opcField w).toNat = w.toNat % 256 := by
  simp [opcField, BitVec.extractLsb'_toNat]

theorem idxField_val : (idxField w).val = w.toNat / 256 % 4 := by
  simp [idxField, Nat.shiftRight_eq_div_pow]

theorem rsvField_toNat : (rsvField w).toNat = w.toNat / 1024 := by
  have hw := w.isLt
  rw [rsvField, BitVec.extractLsb'_toNat, Nat.shiftRight_eq_div_pow, Nat.mod_eq_of_lt (by omega)]

@[simp] theorem opcField_and : opcField (w &&& v) = opcField w &&& opcField v := BitVec.extractLsb'_and

@[simp] theorem idxField_and : idxField (w &&& v) = idxField w &&& idxField v := by
  simp [idxField, BitVec.extractLsb'_and]

@[simp] theorem rsvField_and : rsvField (w &&& v) = rsvField w &&& rsvField v := BitVec.extractLsb'_and

variable {w v}

/-- The three fields of R94 are the whole word. -/
theorem eq_iff_fields_eq :
    w = v ↔ rsvField w = rsvField v ∧ opcField w = opcField v ∧ idxField w = idxField v := by
  rw [← BitVec.toNat_inj, ← BitVec.toNat_inj, ← BitVec.toNat_inj, ← Fin.val_inj]
  simp only [opcField_toNat, idxField_val, rsvField_toNat]
  omega

end fields

section decodeWord
variable {w : BitVec 32} {m : Mnemonic} {idx : Fin 4}

/-- A command that does not use IDX keeps an IDX of 0 and is refused with another (R100). -/
theorem withoutIndex_eq_ite : withoutIndex idx m = if idx = 0 then some (m, idx) else none := by
  rw [withoutIndex]
  split
  · next h => rw [h]
  · rfl

/-- A reserved bit makes a word ILLEGAL_COMMAND (R100). -/
theorem decodeWord_of_rsvField_ne (h : rsvField w ≠ 0) : decodeWord w = none := if_neg h

/-- A reserved opcode makes a word ILLEGAL_COMMAND (R99). -/
theorem decodeWord_of_opcField_ge (h : 0x0D ≤ (opcField w).toNat) : decodeWord w = none := by
  rw [decodeWord]
  split
  · split
    case h_14 => rfl
    all_goals omega
  · rfl

/-- With no reserved bit, a command's opcode gives the command with its IDX, which is used or 0 (R101). -/
theorem decodeWord_of_opcField (hrsv : rsvField w = 0) (hopc : opcField w = m.opcode) :
    decodeWord w = if m.usesIndex = true ∨ idxField w = 0 then some (m, idxField w) else none := by
  rw [decodeWord, if_pos hrsv, hopc]
  cases m <;> simp [Mnemonic.opcode, Mnemonic.usesIndex, withoutIndex_eq_ite]

/-- Every opcode that is not reserved is a command's. -/
theorem Mnemonic.exists_opcode_eq {opc : BitVec 8} (h : opc.toNat < 0x0D) : ∃ m : Mnemonic, opc = m.opcode := by
  have htable : ∀ n < 0x0D, ∃ r ∈ opcodeMap, n = r.name.opcode.toNat := by decide
  obtain ⟨r, -, hr⟩ := htable _ h
  exact ⟨r.name, BitVec.eq_of_toNat_eq hr⟩

/-- A word decodes to a command when it selects the command, and to its own IDX (R101). -/
theorem decodeWord_eq_some : decodeWord w = some (m, idx) ↔ m.Selects w ∧ idxField w = idx := by
  constructor
  · intro h
    have hrsv : rsvField w = 0 := by
      by_contra hne
      simp [decodeWord_of_rsvField_ne hne] at h
    have hlt : (opcField w).toNat < 0x0D := by
      by_contra hge
      simp [decodeWord_of_opcField_ge (Nat.le_of_not_lt hge)] at h
    obtain ⟨m', hopc⟩ := Mnemonic.exists_opcode_eq hlt
    rw [decodeWord_of_opcField hrsv hopc, Option.ite_none_right_eq_some] at h
    obtain ⟨hidx, heq⟩ := h
    cases heq
    exact ⟨⟨hrsv, hopc, hidx⟩, rfl⟩
  · rintro ⟨⟨hrsv, hopc, hidx⟩, rfl⟩
    rw [decodeWord_of_opcField hrsv hopc, if_pos hidx]

end decodeWord

/-- The match and mask columns of R98 hold the opcode and leave out IDX where it is used. -/
theorem fields_of_mem_opcodeMap : ∀ r ∈ opcodeMap,
    rsvField r.pattern = 0 ∧ opcField r.pattern = r.name.opcode ∧ idxField r.pattern = 0 ∧
      rsvField r.mask = BitVec.allOnes 22 ∧ opcField r.mask = BitVec.allOnes 8 ∧
      idxField r.mask = if r.name.usesIndex then 0 else 3 := by decide

/-- A word matches a row under its mask when it selects the row's command (R98). -/
theorem and_mask_eq_pattern_iff {r : OpcodeRow} (hr : r ∈ opcodeMap) (w : BitVec 32) :
    w &&& r.mask = r.pattern ↔ r.name.Selects w := by
  obtain ⟨hprsv, hpopc, hpidx, hmrsv, hmopc, hmidx⟩ := fields_of_mem_opcodeMap r hr
  have hidx : idxField (w &&& r.mask) = 0 ↔ r.name.usesIndex = true ∨ idxField w = 0 := by
    have hand : ∀ i : Fin 4, i &&& 0 = 0 ∧ i &&& 3 = i := by decide
    cases h : r.name.usesIndex <;> simp [hmidx, h, hand]
  rw [eq_iff_fields_eq, hprsv, hpopc, hpidx, hidx, rsvField_and, opcField_and, hmrsv, hmopc, BitVec.and_allOnes,
    BitVec.and_allOnes, Mnemonic.Selects]

/-- A command decodes to an instruction of a row when its word selects the row's command. -/
theorem exists_decode_mnemonic_iff (c : Command) (m : Mnemonic) :
    (∃ i, decode c = some i ∧ i.mnemonic = m) ↔ m.Selects c.word := by
  constructor
  · rintro ⟨i, hi, rfl⟩
    obtain ⟨m, idx, hw, rfl⟩ := decode_eq_some.mp hi
    rw [mnemonic_ofFields]
    exact (decodeWord_eq_some.mp hw).1
  · intro h
    exact ⟨_, decode_of_decodeWord (decodeWord_eq_some.mpr ⟨h, rfl⟩) c.data, mnemonic_ofFields ..⟩

/-- Settles O3: matching a row and decoding to its command are the same conditions on the fields of the word. -/
theorem opcodeMapSelectsTheDecodedCommand : Obligations.OpcodeMapSelectsTheDecodedCommand :=
  ⟨fun c r hr => (and_mask_eq_pattern_iff hr c.word).trans (exists_decode_mnemonic_iff c r.name).symm,
    decode_of_decodeWord (m := .NEXT) (idx := 0) (by decide), decode_of_decodeWord (m := .KEYWR) (idx := 3) (by decide),
    decode_of_decodeWord (m := .INFORD) (idx := 2) (by decide)⟩

/-- The opcodes of the commands are 0x00 to 0x0C (R99). -/
theorem Mnemonic.opcode_toNat_lt (m : Mnemonic) : m.opcode.toNat < 0x0D := by
  cases m <;> decide

/-- The commands without IDX are the seven of R100. -/
theorem Mnemonic.usesIndex_eq_false_iff (m : Mnemonic) :
    m.usesIndex = false ↔ m.opcode.toNat ∈ [0x00, 0x01, 0x02, 0x03, 0x04, 0x09, 0x0A] := by
  cases m <;> decide

/-- A word with a reserved opcode, a reserved bit, or an index on a command that uses none is ILLEGAL_COMMAND (R99,
R100). -/
theorem decode_eq_none_of_reserved {c : Command}
    (h : 0x0D ≤ c.word.toNat % 256 ∨ c.word.toNat / 1024 ≠ 0 ∨
      (c.word.toNat / 256 % 4 ≠ 0 ∧ c.word.toNat % 256 ∈ [0x00, 0x01, 0x02, 0x03, 0x04, 0x09, 0x0A])) :
    decode c = none := by
  refine Option.eq_none_iff_forall_ne_some.mpr fun i hi => ?_
  obtain ⟨hrsv, hopc, hidx⟩ := (exists_decode_mnemonic_iff c i.mnemonic).mp ⟨i, hi, rfl⟩
  have hopcNat : i.mnemonic.opcode.toNat = c.word.toNat % 256 := by rw [← hopc, opcField_toNat]
  rcases h with hreserved | hbits | ⟨hne, hmem⟩
  · have hlt := i.mnemonic.opcode_toNat_lt
    omega
  · exact hbits (by rw [← rsvField_toNat, hrsv]; rfl)
  · have huses := i.mnemonic.usesIndex_eq_false_iff.mpr (hopcNat ▸ hmem)
    have hzero : idxField c.word = 0 := hidx.resolve_left (by simp [huses])
    exact hne (by rw [← idxField_val, hzero]; rfl)

/-- Settles O6: a reserved word does not decode, and a latched word that does not decode is rejected. -/
theorem reservedWordsAreRejected : Obligations.ReservedWordsAreRejected := by
  intro s c hrst hport hreserved
  rw [Machine.step_of_busy hrst hport, Machine.runLatched_of_decode_none (decode_eq_none_of_reserved hreserved)]
  exact ⟨rfl, rfl⟩

end Sys2Proof
end

section
/-! PROOF. A command word made from an opcode and an index (30_encoding.md R94, R105): its three fields are 0, the opcode
and the index, so that it decodes to its command wherever the command uses IDX. -/

namespace Sys2Proof

section commandWord
variable (opc : BitVec 8) (idx : Fin 4)

theorem commandWord_toNat : (commandWord (opc.setWidth 32) idx).toNat = idx.val * 256 + opc.toNat := by
  have hidx : (BitVec.ofNat 32 idx.val <<< 8).toNat = idx.val <<< 8 := by
    rw [BitVec.toNat_shiftLeft, BitVec.toNat_ofNat, Nat.shiftLeft_eq]
    omega
  rw [commandWord, BitVec.toNat_or, hidx, BitVec.toNat_setWidth_of_le (by decide), Nat.or_comm,
    ← Nat.shiftLeft_add_eq_or_of_lt opc.isLt, Nat.shiftLeft_eq]

@[simp] theorem rsvField_commandWord : rsvField (commandWord (opc.setWidth 32) idx) = 0 := by
  have hopc := opc.isLt
  apply BitVec.eq_of_toNat_eq
  rw [rsvField_toNat, commandWord_toNat]
  exact Nat.div_eq_of_lt (by omega)

@[simp] theorem opcField_commandWord : opcField (commandWord (opc.setWidth 32) idx) = opc := by
  have hopc := opc.isLt
  apply BitVec.eq_of_toNat_eq
  rw [opcField_toNat, commandWord_toNat]
  omega

@[simp] theorem idxField_commandWord : idxField (commandWord (opc.setWidth 32) idx) = idx := by
  have hopc := opc.isLt
  apply Fin.ext
  rw [idxField_val, commandWord_toNat]
  omega

end commandWord

/-- A command that uses IDX decodes from its opcode and any index (R101). -/
theorem decode_commandWord {m : Mnemonic} (hm : m.usesIndex = true) (idx : Fin 4) (d : Word) :
    decode ⟨commandWord (m.opcode.setWidth 32) idx, d⟩ = some (Instr.ofFields m idx d) :=
  decode_of_decodeWord (decodeWord_eq_some.mpr ⟨⟨by simp, by simp, .inl hm⟩, by simp⟩) d

end Sys2Proof
end

section
/-! PROOF. Reading and loading the key (40_key_schedule.md R132, R134, R135): the key file as it reads, and the registers
after the key-change tail of a load of at most KS words. -/

namespace Sys2Proof

namespace Quad

theorem get_ofList (ws : List Word) (i : Fin 4) : (ofList ws).get i = ws.getD i.val 0 := by
  fin_cases i <;> rfl

/-- A file loaded from at most `n` words has nothing above its first `n`. -/
theorem hardwire_ofList {n : Nat} {ws : List Word} (h : ws.length ≤ n) : (ofList ws).hardwire n = ofList ws :=
  hardwire_eq_self fun i hi => by rw [get_ofList, List.getD_eq_default _ _ (h.trans hi)]

end Quad

namespace Machine

namespace State

/-- The tail computes the block of counter 0 under the new key (R132). -/
theorem keyChangeTail_BLK (s : State) :
    s.keyChangeTail.BLK = encrypt Quad.zero s.keyWords s.keyChangeTail.KP s.cfg.rounds :=
  congrArg (encrypt · s.keyWords s.keyChangeTail.KP s.cfg.rounds) (hardwire_zero s.cfg.cs)

section loadKey
variable {s : State} {ws : List Word} (h : ws.length ≤ s.cfg.ks)
include h

theorem loadKey_KP : (s.loadKey ws).KP = parity (s.loadKey ws).K :=
  congrArg parity (Quad.hardwire_ofList h)

theorem loadKey_BLK : (s.loadKey ws).BLK = encrypt Quad.zero (s.loadKey ws).K (s.loadKey ws).KP s.cfg.rounds := by
  have hkey : keyWords { s with K := Quad.ofList ws } = Quad.ofList ws := Quad.hardwire_ofList h
  rw [loadKey, keyChangeTail_BLK, hkey]
  rfl

end loadKey

theorem get_keyWords (s : State) (i : Fin 4) : s.keyWords.get i = if i.val < s.cfg.ks then s.K.get i else 0 :=
  Quad.get_hardwire s.cfg.ks s.K i

end State

/-- Settles O17: the response is the key word as the hard-wired file reads it. -/
theorem keyrdReturnsTheKeyWord : Obligations.KeyrdReturnsTheKeyWord := by
  intro s i
  refine ⟨decode_commandWord (m := .KEYRD) rfl i, ?_⟩
  rw [← State.get_keyWords]
  rfl

/-- Settles O12: SEEDI loads one word, or none when KS = 0, which are at most KS words, and SEEDI 0 loads the zero key. -/
theorem seediLoadsTheSeed : Obligations.SeediLoadsTheSeed := by
  intro s v
  have hlen : (if 1 ≤ s.cfg.ks then [v] else []).length ≤ s.cfg.ks := by
    split
    · assumption
    · exact Nat.zero_le _
  have hkey : Quad.ofList (if 1 ≤ s.cfg.ks then [v] else []) = ⟨if 1 ≤ s.cfg.ks then v else 0, 0, 0, 0⟩ := by
    split <;> rfl
  refine ⟨decode_of_decodeWord (m := .SEEDI) (idx := 0) (by decide), _, rfl, rfl, hkey, State.loadKey_KP hlen, rfl, rfl,
    State.loadKey_BLK hlen, rfl, rfl, ?_⟩
  rintro rfl
  exact loadKey_regs_of_zero s (hkey.trans (by rw [ite_self]; rfl))

end Machine

end Sys2Proof
end

section
/-! PROOF. Reading and writing the counter (41_counter.md R164, R165): the counter file as it reads, and CTRWR on each
side of CS. -/

namespace Sys2Proof.Machine

theorem State.get_ctrWords (s : State) (i : Fin 4) :
    s.ctrWords.get i = if i.val < s.cfg.cs then s.CTR.get i else 0 :=
  Quad.get_hardwire s.cfg.cs s.CTR i

section execCtrwr
variable {s : State} {i : Fin 4} (v : Word)

/-- CTRWR of an implemented word (R164). -/
theorem execCtrwr_of_lt (h : i.val < s.cfg.cs) :
    execCtrwr i v s = .next ((State.recomputeBlock { s with CTR := s.CTR.set i v, CUR := 0 }).respond .ok 0) :=
  if_pos (decide_eq_true h)

/-- CTRWR of an unimplemented word (R164). -/
theorem execCtrwr_of_le (h : s.cfg.cs ≤ i.val) : execCtrwr i v s = .next (s.raise .illegalIndex) :=
  if_neg (by simpa [ctrWordImplemented] using h)

end execCtrwr

/-- Settles O18: below CS the block is recomputed after the write and the clearing of CUR, and at or above CS the
command is refused. -/
theorem ctrwrWritesOneWordAndRecomputesTheBlock : Obligations.CtrwrWritesOneWordAndRecomputesTheBlock := by
  intro s i v
  exact ⟨decode_commandWord (m := .CTRWR) rfl i,
    fun h => ⟨_, execCtrwr_of_lt v h, rfl, fun j => Quad.get_set s.CTR i j v, rfl, rfl, rfl, rfl, rfl, rfl⟩,
    fun h => execCtrwr_of_le v h⟩

/-- Settles O19: the response is the counter word as the hard-wired file reads it. -/
theorem ctrrdReturnsTheCounterWord : Obligations.CtrrdReturnsTheCounterWord := by
  intro s i
  refine ⟨decode_commandWord (m := .CTRRD) rfl i, ?_⟩
  rw [← State.get_ctrWords]
  rfl

end Sys2Proof.Machine
end

section
/-! PROOF. Reading the block (42_mixing_network.md R200): the word of a register file that an index selects is the word
at that place of its list. -/

namespace Sys2Proof

theorem Quad.getD_toList (q : Quad) (i : Fin 4) : q.toList.getD i.val 0 = q.get i :=
  (get_ofList q.toList i).symm

namespace Machine

/-- Settles O22: BLKRD uses IDX, so that its encoding decodes with any index, and the response is the word at that place
of the block. -/
theorem blkrdReturnsTheBlockWord : Obligations.BlkrdReturnsTheBlockWord := by
  intro s i
  have hword : [s.BLK.w0, s.BLK.w1, s.BLK.w2, s.BLK.w3].getD i.val 0 = s.BLK.get i := s.BLK.getD_toList i
  refine ⟨decode_commandWord (m := .BLKRD) rfl i, ?_⟩
  rw [hword]
  rfl

end Machine

end Sys2Proof
end

section
/-! PROOF. The range of a sample (43_output_extractor.md R232): a W-bit field extended to a word stays below `2^W`, and
the bounds INFORD reads are 0 and INFO_MAX. -/

namespace Sys2Proof.Machine

theorem zext64_toNat_lt {n : Nat} (v : BitVec n) : (zext64 v).toNat < 2 ^ n := by
  have hle : (zext64 v).toNat ≤ v.toNat := by
    rw [zext64, BitVec.toNat_setWidth]
    exact Nat.mod_le _ _
  exact hle.trans_lt v.isLt

theorem State.sample_toNat_le (s : State) (n : Nat) : (s.sample n).toNat ≤ 2 ^ s.cfg.W.bits - 1 :=
  Nat.le_sub_one_of_lt (zext64_toNat_lt (extract s.cfg.W s.BLK n))

/-- Settles O34: NEXT answers with a sample of its next state, whose configuration, and so the range, is the one before. -/
theorem samplesStayInTheirRange : Obligations.SamplesStayInTheirRange := by
  intro s
  have hrange := s.afterNext.sample_toNat_le (s.afterNext.CUR.toNat - 1)
  rw [State.afterNext_cfg] at hrange
  exact ⟨⟨_, _, s.exec_next, rfl, hrange⟩, ⟨_, rfl, rfl⟩, ⟨_, _, rfl, rfl, infoMax_toNat s.cfg⟩⟩

end Sys2Proof.Machine
end

section
/-! PROOF. ADVANCE on the counter as an integer (41_counter.md R160, R162, R163): the overflow test finds the carry out
of word 0, and the carry chain adds it to the words above. -/

namespace Sys2Proof.Machine

/-- The overflow test of R162 finds exactly the sums that wrap. -/
theorem toNat_add_add_carry (w d : Word) :
    (w + d).toNat + 2 ^ 64 * (decide (d.toNat > 0xFFFFFFFFFFFFFFFF - w.toNat)).toNat = w.toNat + d.toNat := by
  by_cases h : d.toNat > 0xFFFFFFFFFFFFFFFF - w.toNat
  · simp only [decide_eq_true h, Bool.toNat_true]
    bv_omega
  · simp only [decide_eq_false h, Bool.toNat_false]
    bv_omega

/-- A lowest digit below `2^64` stays out of the modulus of the digits above it. -/
theorem add_mul_mod_eq_mod {a : Nat} (ha : a < 2 ^ 64) (b n : Nat) :
    a + 2 ^ 64 * (b % 2 ^ (64 * n)) = (a + 2 ^ 64 * b) % 2 ^ (64 * (n + 1)) := by
  rw [Nat.mul_succ, Nat.add_comm (64 * n), Nat.pow_add, Nat.mod_mul, Nat.add_mul_mod_self_left, Nat.mod_eq_of_lt ha,
    Nat.add_mul_div_left _ _ (by decide), Nat.div_eq_of_lt ha, Nat.zero_add]

/-- Word 0 is always implemented (00_scope.md R6). -/
theorem ctrIndices_eq_cons (c : Config) : ctrIndices c = 0 :: (ctrIndices c).tail := by
  obtain ⟨W, R, KS, CS⟩ := c
  cases CS <;> rfl

/-- ADVANCE adds its argument modulo the range of the counter (R160, R163). -/
theorem advance_val (c : Config) (d : Word) (q : Quad) :
    (advance c d q).val c.cs = (q.val c.cs + d.toNat) % counterRange c := by
  have hnodup := nodup_ctrIndices c
  have hcs := length_ctrIndices c
  rw [val_eq_valOfWords_ctrIndices, val_eq_valOfWords_ctrIndices, advance, counterRange]
  rw [ctrIndices_eq_cons] at hnodup hcs ⊢
  rw [List.tail_cons]
  generalize (ctrIndices c).tail = is at hnodup hcs ⊢
  obtain ⟨h0, his⟩ := List.nodup_cons.mp hnodup
  have hrest : is.map (q.set 0 (q.w0 + d)).get = is.map q.get :=
    List.map_congr_left fun j hj => by rw [Quad.get_set, if_neg (fun h : j = 0 => h0 (h ▸ hj))]
  have hsplit : (q.w0 + d).toNat + 2 ^ 64 * (valOfWords (is.map q.get) +
      (decide (d.toNat > 0xFFFFFFFFFFFFFFFF - q.w0.toNat)).toNat) =
        (q.get 0).toNat + 2 ^ 64 * valOfWords (is.map q.get) + d.toNat := by
    have hcarry := toNat_add_add_carry q.w0 d
    have hword : q.get 0 = q.w0 := rfl
    rw [hword]
    omega
  rw [List.map_cons, List.map_cons, valOfWords, valOfWords, valOfWords_ripple his, hrest, ripple_get_of_not_mem h0,
    Quad.get_set, if_pos rfl, add_mul_mod_eq_mod (BitVec.isLt _), hsplit, ← hcs, List.length_cons]

/-- ADVANCE by 0 changes nothing. -/
theorem advance_zero (c : Config) (q : Quad) : advance c 0 q = q := by
  have hcarry : decide ((0 : Word).toNat > 0xFFFFFFFFFFFFFFFF - q.w0.toNat) = false :=
    decide_eq_false (Nat.not_lt_zero _)
  rw [advance, hcarry, ripple_false]
  exact congrArg (q.set 0) (BitVec.add_zero q.w0)

end Sys2Proof.Machine
end

section
/-! PROOF. DISCARD (44_engine.md R251, R252): its 65-bit arithmetic is that of R251 in integers, since `CUR + n` does
not wrap, and it moves the counter on by ADVANCE, which with 0 blocks to advance changes nothing. -/

namespace Sys2Proof.Machine

theorem four_le_S (c : Config) : 4 ≤ c.S := by
  change 4 ≤ c.W.S
  cases c.W <;> decide

section discardPlan
variable {c : Config} {cur : BitVec 6} {n : Word} (hn : n ≠ 0)
include hn

/-- `P - 1` of R251 fits in 65 bits. -/
theorem discardPosition_toNat : (cur.setWidth 65 + n.setWidth 65 - 1).toNat = cur.toNat + n.toNat - 1 := by
  bv_omega

/-- The blocks to advance are `(P - 1) div S`. -/
theorem discardPlan_blocks_toNat : (discardPlan c cur n).blocks.toNat = (cur.toNat + n.toNat - 1) / c.S := by
  have hS := four_le_S c
  have hlt : (cur.toNat + n.toNat - 1) / c.S < 2 ^ 64 := by
    refine Nat.div_lt_of_lt_mul ?_
    omega
  rw [discardPlan]
  dsimp only
  rw [BitVec.toNat_setWidth, BitVec.toNat_ushiftRight, discardPosition_toNat hn, Nat.shiftRight_eq_div_pow]
  exact Nat.mod_eq_of_lt hlt

theorem discardPlan_blocks_eq_zero_iff :
    (discardPlan c cur n).blocks = 0 ↔ (cur.toNat + n.toNat - 1) / c.S = 0 := by
  rw [← BitVec.toNat_inj, discardPlan_blocks_toNat hn]
  rfl

/-- The new cursor is `(P - 1) mod S + 1`. -/
theorem discardPlan_cursor_toNat : (discardPlan c cur n).cursor.toNat = (cur.toNat + n.toNat - 1) % c.S + 1 := by
  have hS := S_le c
  have hpos := S_pos c
  have hmask : (BitVec.ofNat 65 c.S - 1).toNat = 2 ^ c.log2S - 1 := by
    change _ = c.S - 1
    bv_omega
  have hmod := Nat.mod_lt (cur.toNat + n.toNat - 1) hpos
  rw [discardPlan]
  dsimp only
  rw [BitVec.toNat_setWidth, BitVec.toNat_add, BitVec.toNat_and, hmask, discardPosition_toNat hn,
    Nat.and_two_pow_sub_one_eq_mod]
  change ((_ % c.S + 1) % _) % _ = _
  omega

end discardPlan

namespace State
section discardBy
variable (s : State) {n : Word} (hn : n ≠ 0)

@[simp] theorem discardBy_zero : s.discardBy 0 = s := if_pos rfl

include hn

theorem discardBy_of_blocks_eq_zero (hq : (discardPlan s.cfg s.CUR n).blocks = 0) :
    s.discardBy n = { s with CUR := (discardPlan s.cfg s.CUR n).cursor } :=
  (if_neg hn).trans (if_pos hq)

theorem discardBy_of_blocks_ne_zero (hq : (discardPlan s.cfg s.CUR n).blocks ≠ 0) :
    s.discardBy n =
      { s.advanceBlocks (discardPlan s.cfg s.CUR n).blocks with CUR := (discardPlan s.cfg s.CUR n).cursor } :=
  (if_neg hn).trans (if_neg hq)

theorem discardBy_CUR : (s.discardBy n).CUR = (discardPlan s.cfg s.CUR n).cursor := by
  by_cases hq : (discardPlan s.cfg s.CUR n).blocks = 0
  · rw [discardBy_of_blocks_eq_zero s hn hq]
  · rw [discardBy_of_blocks_ne_zero s hn hq]

theorem discardBy_CTR : (s.discardBy n).CTR = advance s.cfg (discardPlan s.cfg s.CUR n).blocks s.CTR := by
  by_cases hq : (discardPlan s.cfg s.CUR n).blocks = 0
  · rw [discardBy_of_blocks_eq_zero s hn hq, hq, advance_zero]
  · rw [discardBy_of_blocks_ne_zero s hn hq]
    rfl

/-- The block is recomputed exactly when the counter moves. -/
theorem discardBy_BLK :
    (s.discardBy n).BLK =
      if (s.CUR.toNat + n.toNat - 1) / s.cfg.S = 0 then s.BLK else (s.discardBy n).currentBlock := by
  simp only [← discardPlan_blocks_eq_zero_iff hn]
  split
  case isTrue hq => rw [discardBy_of_blocks_eq_zero s hn hq]
  case isFalse hq =>
    rw [discardBy_of_blocks_ne_zero s hn hq]
    rfl

theorem ctrVal_discardBy :
    (s.discardBy n).ctrVal = (s.ctrVal + (s.CUR.toNat + n.toNat - 1) / s.cfg.S) % counterRange s.cfg := by
  obtain ⟨hcfg, -⟩ := discardBy_frame s n
  rw [ctrVal, hcfg, discardBy_CTR s hn, advance_val, discardPlan_blocks_toNat hn]
  rfl

end discardBy
end State

/-- Settles O10: DISCARD answers with the state part `discardBy`, whose cursor, counter and block come from the plan. -/
theorem discardMovesCounterAndCursor : Obligations.DiscardMovesCounterAndCursor := by
  intro s n
  refine ⟨decode_of_decodeWord (m := .DISCARD) (idx := 0) (by decide), ?_, fun hn => ?_⟩
  · rintro rfl
    rfl
  · obtain ⟨hcfg, hK, hKP, -, henv⟩ := discardBy_frame s n
    have hCUR : (s.discardBy n).CUR.toNat = (s.CUR.toNat + n.toNat - 1) % s.cfg.S + 1 := by
      rw [s.discardBy_CUR hn, discardPlan_cursor_toNat hn]
    have hCTR (i : Fin 4) (hi : s.cfg.cs ≤ i.val) : (s.discardBy n).CTR.get i = s.CTR.get i := by
      rw [s.discardBy_CTR hn, advance_get_unimplemented hi]
    exact ⟨_, rfl, rfl, hCUR, s.ctrVal_discardBy hn, hCTR, s.discardBy_BLK hn, hK, hKP, hcfg, henv⟩

end Sys2Proof.Machine
end

section
/-! PROOF. The other engine commands (44_engine.md R250, R254 to R257): NEXT on each side of `CUR = S`, CURWR on each
side of its bound, and the commands that only respond. -/

namespace Sys2Proof.Machine

section execNext
variable {s : State}

/-- NEXT with a sample left in the block (R250). -/
theorem execNext_of_lt (h : s.CUR.toNat < s.cfg.S) :
    execNext s = .next (State.respond { s with CUR := s.CUR + 1 } .ok (s.sample s.CUR.toNat)) := if_pos h

/-- NEXT on an exhausted block (R250). -/
theorem execNext_of_exhausted (h : s.cfg.S ≤ s.CUR.toNat) :
    execNext s = .next (State.respond { s.nextBlock with CUR := 1 } .ok (s.nextBlock.sample 0)) :=
  if_neg (Nat.not_lt.mpr h)

end execNext

section execCurwr
variable {s : State} {p : Word}

/-- The cursor field holds every legal cursor whole (R254). -/
theorem cursorField_of_le {c : Config} (h : p.toNat ≤ c.S) : cursorField c p = BitVec.ofNat 6 p.toNat := by
  have hlt : p.toNat < 2 ^ (c.log2S + 1) := by
    have hpos := S_pos c
    change p.toNat ≤ 2 ^ c.log2S at h
    change 0 < 2 ^ c.log2S at hpos
    omega
  apply BitVec.eq_of_toNat_eq
  rw [cursorField, BitVec.toNat_setWidth, BitVec.extractLsb'_toNat, BitVec.toNat_ofNat, Nat.shiftRight_zero,
    Nat.mod_eq_of_lt hlt]

/-- CURWR of a cursor in range (R254). -/
theorem execCurwr_of_le (h : p.toNat ≤ s.cfg.S) :
    execCurwr p s = .next (State.respond { s with CUR := BitVec.ofNat 6 p.toNat } .ok 0) := by
  rw [← cursorField_of_le h]
  exact if_pos (decide_eq_true h)

/-- CURWR of a cursor out of range (R254). -/
theorem execCurwr_of_lt (h : s.cfg.S < p.toNat) : execCurwr p s = .next (s.raise .illegalOperand) :=
  if_neg (by simpa [cursorLegal] using h)

end execCurwr

/-- Settles O20: up to S the field is the operand itself, and above S the command is refused. -/
theorem curwrSetsTheCursor : Obligations.CurwrSetsTheCursor := by
  intro s p
  exact ⟨decode_of_decodeWord (m := .CURWR) (idx := 0) (by decide), execCurwr_of_le,
    fun h => ⟨execCurwr_of_lt h, rfl⟩⟩

/-- Settles O23: INFORD uses IDX, so that its encoding decodes with any index, and the response is the information
register of that index. -/
theorem infordReturnsTheInformationRegister : Obligations.InfordReturnsTheInformationRegister := by
  intro s i
  refine ⟨decode_commandWord (m := .INFORD) rfl i, infoRegister s.cfg s.KP i, rfl, ?_, ?_, ?_, ?_⟩
  · rintro rfl
    rfl
  · rintro rfl
    exact infoMax_toNat s.cfg
  · rintro rfl
    exact infoConfig_toNat s.cfg
  · rintro rfl
    rfl

/-- Settles O8: NOP is a bare response. -/
theorem nopOnlyResponds : Obligations.NopOnlyResponds :=
  fun _ => ⟨decode_of_decodeWord (m := .NOP) (idx := 0) (by decide), rfl, rfl⟩

/-- Settles O9: the two branches of R250. -/
theorem nextReturnsTheNextSample : Obligations.NextReturnsTheNextSample :=
  fun _ => ⟨decode_of_decodeWord (m := .NEXT) (idx := 0) (by decide), execNext_of_lt, execNext_of_exhausted⟩

/-- Settles O21: zero-extending the cursor keeps its value. -/
theorem currdReturnsTheCursor : Obligations.CurrdReturnsTheCursor := by
  intro s
  refine ⟨decode_of_decodeWord (m := .CURRD) (idx := 0) (by decide), ?_⟩
  rw [BitVec.ofNat_toNat]
  rfl

end Sys2Proof.Machine
end

section
/-! PROOF. SEEDS against the answers the seed source will give (40_key_schedule.md R136, 70_reset_and_hazards.md R347):
every list of answers begins with fewer words than asked for and EOS, or with the words asked for, or is fewer words and
no more; SEEDS then fails, or loads the key, or waits. -/

namespace Sys2Proof.Machine

/-- How a list of seed answers meets a command that asks for `n` words. -/
theorem seedAnswers_cases (n : Nat) (as : List SeedAnswer) :
    (∃ (ws : List Word) (rest : List SeedAnswer), ws.length < n ∧ as = ws.map .word ++ .eos :: rest) ∨
      (∃ (ws : List Word) (rest : List SeedAnswer), ws.length = n ∧ as = ws.map .word ++ rest) ∨
      ∃ ws : List Word, ws.length < n ∧ as = ws.map .word := by
  induction as generalizing n with
  | nil =>
    obtain rfl | hn := Nat.eq_zero_or_pos n
    · exact .inr (.inl ⟨[], [], rfl, rfl⟩)
    · exact .inr (.inr ⟨[], hn, rfl⟩)
  | cons a as ih =>
    cases n with
    | zero => exact .inr (.inl ⟨[], a :: as, rfl, rfl⟩)
    | succ n =>
      cases a with
      | eos => exact .inl ⟨[], as, Nat.succ_pos n, rfl⟩
      | word v =>
        obtain ⟨ws, rest, hlen, rfl⟩ | ⟨ws, rest, hlen, rfl⟩ | ⟨ws, hlen, rfl⟩ := ih n
        · exact .inl ⟨v :: ws, rest, Nat.succ_lt_succ hlen, rfl⟩
        · exact .inr (.inl ⟨v :: ws, rest, congrArg Nat.succ hlen, rfl⟩)
        · exact .inr (.inr ⟨v :: ws, Nat.succ_lt_succ hlen, rfl⟩)

namespace State

/-- The state with the seed answers still to come replaced. -/
def withSeedsLeft (s : State) (rest : List SeedAnswer) : State := { s with env := { s.env with seeds := rest } }

/-- A SEEDS that holds the words `buf` and is between answers. -/
def seedingWith (s : State) (buf : List Word) : State := { s with port := .seeding false buf }

section seeds
variable {s : State} {buf ws : List Word}

theorem seedProceed_of_lt (h : buf.length < s.cfg.ks) :
    (s.seedingWith buf).seedProceed = { s with port := .seeding true buf } := if_pos h

theorem seedProceed_of_le (h : s.cfg.ks ≤ buf.length) :
    (s.seedingWith buf).seedProceed = ((s.seedingWith buf).loadKey (buf.take s.cfg.ks)).respond .ok 0 :=
  if_neg (Nat.not_lt.mpr h)

/-- Words that come while more are asked for go into the buffer. -/
theorem seedRun_words (h : buf.length + ws.length ≤ s.cfg.ks) (rest : List SeedAnswer) :
    seedRun (ws.map .word ++ rest) (s.seedingWith buf).seedProceed =
      seedRun rest (s.seedingWith (buf ++ ws)).seedProceed := by
  induction ws generalizing buf with
  | nil => rw [List.append_nil, List.map_nil, List.nil_append]
  | cons v ws ih =>
    rw [List.length_cons] at h
    rw [List.append_cons, ← ih (by rw [List.length_append, List.length_singleton]; omega),
      seedProceed_of_lt (by omega)]
    rfl

end seeds

end State

section execSeeds
variable {s : State} {ws : List Word} {rest : List SeedAnswer}

/-- SEEDS after its first words have come. -/
theorem execSeeds_of_words (h : ws.length ≤ s.cfg.ks) (hs : s.env.seeds = ws.map .word ++ rest) :
    execSeeds s = .next (State.seedRun rest (s.seedingWith ws).seedProceed) := by
  change Host.Outcome.next (State.seedRun s.env.seeds (s.seedingWith []).seedProceed) = _
  rw [hs, State.seedRun_words (by simpa using h), List.nil_append]

/-- SEEDS whose source ends before KS words fails, having consumed the answers up to EOS (R136). -/
theorem execSeeds_of_eos (h : ws.length < s.cfg.ks) (hs : s.env.seeds = ws.map .word ++ .eos :: rest) :
    execSeeds s = .next ((s.withSeedsLeft rest).raise .seedExhausted) := by
  rw [execSeeds_of_words h.le hs, State.seedProceed_of_lt h, State.seedRun_cons rfl]
  exact congrArg _ (State.seedRun_of_no_request (fun _ => Port.noConfusion) rest)

/-- SEEDS whose source gives KS words loads them and consumes no other answer (R136). -/
theorem execSeeds_of_ks_words (h : ws.length = s.cfg.ks) (hs : s.env.seeds = ws.map .word ++ rest) :
    execSeeds s = .next (((s.withSeedsLeft rest).loadKey ws).respond .ok 0) := by
  rw [execSeeds_of_words h.le hs, State.seedProceed_of_le h.ge, ← h, List.take_length]
  exact congrArg _ (State.seedRun_of_no_request (fun _ => Port.noConfusion) rest)

/-- SEEDS whose source gives fewer than KS words and then no answer waits with its request outstanding (R347). -/
theorem execSeeds_of_lt_words (h : ws.length < s.cfg.ks) (hs : s.env.seeds = ws.map .word) :
    execSeeds s = .next { s.withSeedsLeft [] with port := .seeding true ws } := by
  rw [execSeeds_of_words h.le (hs.trans (List.append_nil _).symm), State.seedProceed_of_lt h]
  rfl

end execSeeds

end Sys2Proof.Machine
end

section
/-! PROOF. The errors (60_exceptions.md R300, R301). `FailsWith` is the table of R301; a command with a cause of that
table raises its status with nothing changed but the seed answers consumed, and a command without one completes or, a
SEEDS only, waits. So an error response has its cause, and both statements come from the raise that the cause gives. -/

namespace Sys2Proof.Machine

/-- The table of R301: the causes for which command `c` fails with a status on a block in state `s`. -/
def FailsWith (c : Command) (s : State) : Status → Prop
  | .ok => False
  | .seedExhausted =>
    decode c = some .seeds ∧
      ∃ (ws : List Word) (rest : List SeedAnswer), ws.length < s.cfg.ks ∧ s.env.seeds = ws.map .word ++ .eos :: rest
  | .illegalCommand => decode c = none
  | .illegalIndex =>
    (∃ i v, decode c = some (.keywr i v) ∧ s.cfg.ks ≤ i.val) ∨ ∃ i v, decode c = some (.ctrwr i v) ∧ s.cfg.cs ≤ i.val
  | .illegalOperand => ∃ p, decode c = some (.curwr p) ∧ s.cfg.S < p.toNat

section execKeywr
variable {s : State} {i : Fin 4} (v : Word)

/-- KEYWR of an implemented word (40_key_schedule.md R133). -/
theorem execKeywr_of_lt (h : i.val < s.cfg.ks) :
    execKeywr i v s = .next ((State.keyChangeTail { s with K := s.K.set i v }).respond .ok 0) :=
  if_pos (decide_eq_true h)

/-- KEYWR of an unimplemented word (R133). -/
theorem execKeywr_of_le (h : s.cfg.ks ≤ i.val) : execKeywr i v s = .next (s.raise .illegalIndex) :=
  if_neg (by simpa [keyWordImplemented] using h)

end execKeywr

section errors
variable {c : Command} {s t : State} {st : Status} {d : Word}

/-- A command with a cause to fail raises that status (R300): only seed answers are consumed. -/
theorem FailsWith.runLatched_eq (h : FailsWith c s st) :
    ∃ rest, rest <:+ s.env.seeds ∧ runLatched c s = .next ((s.withSeedsLeft rest).raise st) := by
  cases st with
  | ok => exact h.elim
  | seedExhausted =>
    obtain ⟨hc, ws, rest, hlen, hs⟩ := h
    refine ⟨rest, ?_, (runLatched_of_decode hc).trans (execSeeds_of_eos hlen hs)⟩
    rw [hs, List.append_cons]
    exact List.suffix_append _ rest
  | illegalCommand => exact ⟨_, List.suffix_rfl, runLatched_of_decode_none h⟩
  | illegalIndex =>
    obtain ⟨i, v, hc, hi⟩ | ⟨i, v, hc, hi⟩ := h
    · exact ⟨_, List.suffix_rfl, (runLatched_of_decode hc).trans (execKeywr_of_le v hi)⟩
    · exact ⟨_, List.suffix_rfl, (runLatched_of_decode hc).trans (execCtrwr_of_le v hi)⟩
  | illegalOperand =>
    obtain ⟨p, hc, hp⟩ := h
    exact ⟨_, List.suffix_rfl, (runLatched_of_decode hc).trans (execCurwr_of_lt hp)⟩

/-- Every command completes, has a cause to fail, or waits for the seed source. -/
theorem runLatched_cases (c : Command) (s : State) :
    (∃ u d, runLatched c s = .next (State.respond u .ok d)) ∨ (∃ st, FailsWith c s st) ∨
      ∃ u buf, runLatched c s = .next u ∧ u.port = .seeding true buf := by
  cases hc : decode c with
  | none => exact .inr (.inl ⟨.illegalCommand, hc⟩)
  | some i =>
    rw [runLatched_of_decode hc]
    cases i with
    | next => exact .inl ⟨_, _, s.exec_next⟩
    | seeds =>
      obtain ⟨ws, rest, hlen, hs⟩ | ⟨ws, rest, hlen, hs⟩ | ⟨ws, hlen, hs⟩ := seedAnswers_cases s.cfg.ks s.env.seeds
      · exact .inr (.inl ⟨.seedExhausted, hc, ws, rest, hlen, hs⟩)
      · exact .inl ⟨_, _, execSeeds_of_ks_words hlen hs⟩
      · exact .inr (.inr ⟨_, ws, execSeeds_of_lt_words hlen hs, rfl⟩)
    | keywr i v =>
      obtain hi | hi := Nat.lt_or_ge i.val s.cfg.ks
      · exact .inl ⟨_, _, execKeywr_of_lt v hi⟩
      · exact .inr (.inl ⟨.illegalIndex, .inl ⟨i, v, hc, hi⟩⟩)
    | ctrwr i v =>
      obtain hi | hi := Nat.lt_or_ge i.val s.cfg.cs
      · exact .inl ⟨_, _, execCtrwr_of_lt v hi⟩
      · exact .inr (.inl ⟨.illegalIndex, .inr ⟨i, v, hc, hi⟩⟩)
    | curwr p =>
      obtain hp | hp := Nat.lt_or_ge s.cfg.S p.toNat
      · exact .inr (.inl ⟨.illegalOperand, p, hc, hp⟩)
      · exact .inl ⟨_, _, execCurwr_of_le hp⟩
    | nop | discard | seedi | keyrd | ctrrd | currd | blkrd | inford => exact .inl ⟨_, _, rfl⟩

/-- Where the command has a cause to fail, the response it offers is that of the raise. -/
theorem FailsWith.eq_raise {st' : Status} (h : FailsWith c s st') (ht : runLatched c s = .next t)
    (hp : t.port = .responding ⟨st, d⟩) :
    st = st' ∧ d = 0 ∧ ∃ rest, rest <:+ s.env.seeds ∧ t = (s.withSeedsLeft rest).raise st' := by
  obtain ⟨rest, hrest, heq⟩ := h.runLatched_eq
  obtain rfl := Host.Outcome.next.inj (ht.symm.trans heq)
  cases hp
  exact ⟨rfl, rfl, rest, hrest, rfl⟩

/-- A response that is not OK has a cause of the table. -/
theorem failsWith_of_responding (ht : runLatched c s = .next t) (hp : t.port = .responding ⟨st, d⟩) (hst : st ≠ .ok) :
    FailsWith c s st := by
  obtain ⟨u, d', hu⟩ | ⟨st', h⟩ | ⟨u, buf, hu, hwait⟩ := runLatched_cases c s
  · obtain rfl := Host.Outcome.next.inj (ht.symm.trans hu)
    cases hp
    exact absurd rfl hst
  · obtain ⟨rfl, -⟩ := h.eq_raise ht hp
    exact h
  · obtain rfl := Host.Outcome.next.inj (ht.symm.trans hu)
    cases hp.symm.trans hwait

/-- An error status is answered exactly for its causes. -/
theorem status_eq_iff_failsWith (ht : runLatched c s = .next t) (hp : t.port = .responding ⟨st, d⟩) {e : Status}
    (he : e ≠ .ok) : st = e ↔ FailsWith c s e := by
  refine ⟨?_, fun h => ?_⟩
  · rintro rfl
    exact failsWith_of_responding ht hp he
  · obtain ⟨hst, -⟩ := h.eq_raise ht hp
    exact hst

end errors

/-- Settles O45: a response that is not OK is a raise, which the next step delivers. -/
theorem failingCommandChangesNoRegister : Obligations.FailingCommandChangesNoRegister := by
  intro s t c st d ht hp hst
  obtain ⟨-, hd, rest, hrest, rfl⟩ := (failsWith_of_responding ht hp hst).eq_raise ht hp
  exact ⟨rfl, hd, rfl, rfl, hrest, _, step_of_responding rfl rfl, rfl, rfl⟩

/-- Settles O46: each line of the table is `FailsWith` at that status, and an error is a raise. -/
theorem errorStatusesHaveTheStatedCauses : Obligations.ErrorStatusesHaveTheStatedCauses := by
  intro s t c st d ht hp
  refine ⟨status_eq_iff_failsWith ht hp (e := .illegalCommand) (by decide),
    status_eq_iff_failsWith ht hp (e := .illegalIndex) (by decide),
    status_eq_iff_failsWith ht hp (e := .illegalOperand) (by decide),
    status_eq_iff_failsWith ht hp (e := .seedExhausted) (by decide), by decide, fun hst => ?_⟩
  obtain ⟨-, hd, rest, -, rfl⟩ := (failsWith_of_responding ht hp hst).eq_raise ht hp
  exact ⟨rfl, hd⟩

end Sys2Proof.Machine
end

section
/-! PROOF. The configuration (70_reset_and_hazards.md R343): every operation of the block keeps it, so every command does,
and with that every step and every clock edge. -/

namespace Sys2Proof.Machine

namespace State

@[simp] theorem seedRun_cfg (as : List SeedAnswer) (s : State) : (seedRun as s).cfg = s.cfg := by
  induction as generalizing s with
  | nil => rfl
  | cons a as ih =>
    unfold seedRun
    split
    · rw [ih, seedProceed_cfg, seedTake_cfg]
    · rfl

@[simp] theorem seedPull_cfg (s : State) : s.seedPull.cfg = s.cfg :=
  (seedRun_cfg s.env.seeds s.seedProceed).trans s.seedProceed_cfg

@[simp] theorem accept_cfg (s : State) : s.accept.cfg = s.cfg := by
  unfold accept
  split <;> rfl

@[simp] theorem deliver_cfg (s : State) (r : Response) : (s.deliver r).cfg = s.cfg := by
  unfold deliver
  split <;> rfl

end State

/-- Every command answers a next state, of the same configuration (R343). -/
theorem exec_keeps_cfg (i : Instr) (s : State) : ∃ t, exec i s = .next t ∧ t.cfg = s.cfg := by
  cases i with
  | next => exact ⟨_, s.exec_next, s.afterNext_cfg⟩
  | discard n =>
    obtain ⟨hcfg, -⟩ := discardBy_frame s n
    exact ⟨_, rfl, hcfg⟩
  | seeds => exact ⟨_, rfl, State.seedPull_cfg _⟩
  | keywr i v =>
    obtain hi | hi := Nat.lt_or_ge i.val s.cfg.ks
    · exact ⟨_, execKeywr_of_lt v hi, rfl⟩
    · exact ⟨_, execKeywr_of_le v hi, rfl⟩
  | ctrwr i v =>
    obtain hi | hi := Nat.lt_or_ge i.val s.cfg.cs
    · exact ⟨_, execCtrwr_of_lt v hi, rfl⟩
    · exact ⟨_, execCtrwr_of_le v hi, rfl⟩
  | curwr p =>
    obtain hp | hp := Nat.lt_or_ge s.cfg.S p.toNat
    · exact ⟨_, execCurwr_of_lt hp, rfl⟩
    · exact ⟨_, execCurwr_of_le hp, rfl⟩
  | nop | seedi | keyrd | ctrrd | currd | blkrd | inford => exact ⟨_, rfl, rfl⟩

/-- A latched command answers a next state of the same configuration, rejected or not. -/
theorem runLatched_keeps_cfg (c : Command) (s : State) : ∃ t, runLatched c s = .next t ∧ t.cfg = s.cfg := by
  cases hc : decode c with
  | none => exact ⟨_, runLatched_of_decode_none hc, rfl⟩
  | some i =>
    rw [runLatched_of_decode hc]
    exact exec_keeps_cfg i s

/-- Every step answers a next state, of the same configuration (R343). -/
theorem step_keeps_cfg (s : State) : ∃ t, step s = .next t ∧ t.cfg = s.cfg := by
  unfold step
  split
  · exact ⟨_, rfl, s.takeReset_cfg⟩
  split
  · exact ⟨_, rfl, s.becomeReady_cfg⟩
  · exact ⟨_, rfl, s.accept_cfg⟩
  · exact runLatched_keeps_cfg _ s
  · exact ⟨_, rfl, s.seedPull_cfg⟩
  · exact ⟨_, rfl, s.seedPull_cfg⟩
  · exact ⟨_, rfl, s.deliver_cfg _⟩

namespace State

@[simp] theorem finishCommand_cfg (c : Command) (s : State) : (s.finishCommand c).cfg = s.cfg := by
  unfold finishCommand
  split
  · rfl
  · exact seedProceed_cfg _
  · next i _ _ =>
    obtain ⟨t, ht, hcfg⟩ := exec_keeps_cfg i s
    rw [ht]
    exact hcfg

@[simp] theorem commandEdge_cfg (e : Edge) (c : Command) (s : State) : (s.commandEdge e c).cfg = s.cfg := by
  unfold commandEdge
  split
  · exact finishCommand_cfg c s
  · rfl

@[simp] theorem acceptPins_cfg (e : Edge) (s : State) : (s.acceptPins e).cfg = s.cfg := by
  unfold acceptPins
  split
  · exact commandEdge_cfg e _ _
  · rfl

@[simp] theorem seedWork_cfg (e : Edge) (s : State) : (s.seedWork e).cfg = s.cfg := by
  unfold seedWork
  split
  · exact s.seedProceed_cfg
  · rfl

@[simp] theorem seedEdge_cfg (e : Edge) (buf : List Word) (s : State) : (s.seedEdge e buf).cfg = s.cfg := by
  obtain ⟨-, h⟩ | ⟨-, -, h⟩ | ⟨-, -, -, h⟩ | ⟨-, -, -, h⟩ := seedEdge_cases (s := s) (e := e) buf <;> simp [h]

@[simp] theorem resetEdge_cfg (e : Edge) (s : State) : (s.resetEdge e).cfg = s.cfg := by
  unfold resetEdge
  split <;> rfl

end State

/-- Every clock edge keeps the configuration (R343). -/
@[simp] theorem clockEdge_cfg (e : Edge) (s : State) : (clockEdge e s).cfg = s.cfg := by
  unfold clockEdge
  split
  · exact s.resetEdge_cfg e
  split
  · split <;> rfl
  · exact s.acceptPins_cfg e
  · exact s.commandEdge_cfg e _
  · exact s.seedEdge_cfg e _
  · exact s.seedWork_cfg e
  · exact s.seedWork_cfg e
  · split <;> rfl

/-- Settles O42: the one next state of a step has the configuration of the state before, and so has that of an edge. -/
theorem configurationNeverChanges : Obligations.ConfigurationNeverChanges := by
  intro s
  refine ⟨fun t ht => ?_, fun e => clockEdge_cfg e s⟩
  obtain ⟨u, hu, hcfg⟩ := step_keeps_cfg s
  obtain rfl := Host.Outcome.next.inj (ht.symm.trans hu)
  exact hcfg

end Sys2Proof.Machine
end

section
/-! PROOF. Encoding against decoding (30_encoding.md R98, R101, R105): a word decodes to a command and an index exactly
when it is their command word, so encoder and decoder undo each other and the words that decode can be listed. -/

namespace Sys2Proof

/-- A word decodes exactly when it is the command word of what it decodes to, whose index is used or 0 (R101, R105). -/
theorem decodeWord_eq_some_iff_eq_commandWord {w : BitVec 32} {m : Mnemonic} {idx : Fin 4} :
    decodeWord w = some (m, idx) ↔ (m.usesIndex = true ∨ idx = 0) ∧ w = commandWord (m.opcode.setWidth 32) idx := by
  rw [decodeWord_eq_some, eq_iff_fields_eq, rsvField_commandWord, opcField_commandWord, idxField_commandWord,
    Mnemonic.Selects]
  constructor
  · rintro ⟨⟨hrsv, hopc, hidx⟩, rfl⟩
    exact ⟨hidx, hrsv, hopc, rfl⟩
  · rintro ⟨hidx, hrsv, hopc, rfl⟩
    exact ⟨⟨hrsv, hopc, hidx⟩, rfl⟩

/-- The encoder emits the command word of the fields of an instruction (R105). -/
theorem encode_ofFields_word {m : Mnemonic} {idx : Fin 4} (h : m.usesIndex = true ∨ idx = 0) (d : Word) :
    (encode (Instr.ofFields m idx d)).word = commandWord (m.opcode.setWidth 32) idx := by
  cases m with
  | NOP | NEXT | DISCARD | SEEDI | SEEDS | CURWR | CURRD =>
    obtain rfl : idx = 0 := h.resolve_left Bool.false_ne_true
    rfl
  | KEYWR | KEYRD | CTRWR | CTRRD | BLKRD | INFORD => rfl

/-- Settles O1: the word of the encoding is the command word of the instruction's row and index. -/
theorem decodeInvertsEncode : Obligations.DecodeInvertsEncode := by
  intro i
  cases i with
  | keywr idx v => exact decode_commandWord (m := .KEYWR) rfl idx v
  | keyrd idx => exact decode_commandWord (m := .KEYRD) rfl idx 0
  | ctrwr idx v => exact decode_commandWord (m := .CTRWR) rfl idx v
  | ctrrd idx => exact decode_commandWord (m := .CTRRD) rfl idx 0
  | blkrd idx => exact decode_commandWord (m := .BLKRD) rfl idx 0
  | inford idx => exact decode_commandWord (m := .INFORD) rfl idx 0
  | discard n => exact decode_of_decodeWord (m := .DISCARD) (idx := 0) (by decide) n
  | seedi v => exact decode_of_decodeWord (m := .SEEDI) (idx := 0) (by decide) v
  | curwr p => exact decode_of_decodeWord (m := .CURWR) (idx := 0) (by decide) p
  | nop | next | seeds | currd => rfl

/-- The encoder keeps the operand of an instruction that reads it (R95). -/
theorem encode_ofFields_data {m : Mnemonic} {idx : Fin 4} {d : Word}
    (h : readsOperand (Instr.ofFields m idx d) = true) : (encode (Instr.ofFields m idx d)).data = d := by
  cases m with
  | DISCARD | SEEDI | KEYWR | CTRWR | CURWR => rfl
  | NOP | NEXT | SEEDS | KEYRD | CTRRD | CURRD | BLKRD | INFORD => cases h

/-- An instruction that does not read the operand is the same for every operand (R95). -/
theorem ofFields_eq_of_not_readsOperand {m : Mnemonic} {idx : Fin 4} {d : Word}
    (h : readsOperand (Instr.ofFields m idx d) = false) (d' : Word) :
    Instr.ofFields m idx d' = Instr.ofFields m idx d := by
  cases m with
  | NOP | NEXT | SEEDS | KEYRD | CTRRD | CURRD | BLKRD | INFORD => rfl
  | DISCARD | SEEDI | KEYWR | CTRWR | CURWR => cases h

/-- Settles O2: the word is the command word of its fields, and the fields and the operand make the instruction. -/
theorem encodeInvertsDecode : Obligations.EncodeInvertsDecode := by
  rintro c i hi
  obtain ⟨m, idx, hw, rfl⟩ := decode_eq_some.mp hi
  obtain ⟨hidx, hword⟩ := decodeWord_eq_some_iff_eq_commandWord.mp hw
  refine ⟨(encode_ofFields_word hidx c.data).trans hword.symm, encode_ofFields_data, fun h d => ?_⟩
  rw [decode_of_decodeWord hw, ofFields_eq_of_not_readsOperand h]

/-- A command decodes exactly when its word is a command word with an index that is used or 0. -/
theorem decode_isSome_iff (c : Command) :
    (decode c).isSome = true ↔
      ∃ (m : Mnemonic) (idx : Fin 4), (m.usesIndex = true ∨ idx = 0) ∧
        c.word = commandWord (m.opcode.setWidth 32) idx := by
  simp only [decode, Option.isSome_map, Option.isSome_iff_exists, Prod.exists, decodeWord_eq_some_iff_eq_commandWord]

/-- Settles O4: the words listed are the command words of the thirteen rows with their indices. -/
theorem exactlyThirtyOneWordsDecode : Obligations.ExactlyThirtyOneWordsDecode := by
  unfold Obligations.ExactlyThirtyOneWordsDecode
  intro words
  refine ⟨rfl, by decide, fun c => ⟨fun h => ?_, fun h => ?_⟩⟩
  · have hmem (m : Mnemonic) : ∀ idx : Fin 4, m.usesIndex = true ∨ idx = 0 →
        commandWord (m.opcode.setWidth 32) idx ∈ words := by cases m <;> decide
    obtain ⟨m, idx, hidx, hword⟩ := (decode_isSome_iff c).mp h
    exact hword ▸ hmem m idx hidx
  · have hdecodes : words.all (fun w => (decodeWord w).isSome) = true := by decide
    rw [decode, Option.isSome_map]
    exact List.all_eq_true.mp hdecodes c.word h

/-- Settles O5: each word decodes, or is refused, by its fields. -/
theorem writtenOutWordsDecode : Obligations.WrittenOutWordsDecode := by
  intro d
  exact ⟨decode_of_decodeWord (m := .NOP) (idx := 0) (by decide) d,
    decode_of_decodeWord (m := .NEXT) (idx := 0) (by decide) d,
    decode_of_decodeWord (m := .DISCARD) (idx := 0) (by decide) d,
    decode_of_decodeWord (m := .KEYWR) (idx := 3) (by decide) d,
    decode_of_decodeWord (m := .CTRRD) (idx := 1) (by decide) d,
    decode_of_decodeWord (m := .INFORD) (idx := 2) (by decide) d,
    decode_of_decodeWord (m := .BLKRD) (idx := 3) (by decide) d,
    decode_of_decodeWord_none (by decide) d, decode_of_decodeWord_none (by decide) d,
    decode_of_decodeWord_none (by decide) d, decode_of_decodeWord_none (by decide) d,
    decode_of_decodeWord_none (by decide) d⟩

namespace Machine

/-- The index of a source line as the table of R105 places it in the command word. -/
theorem commandWord_wordIndex (opc : BitVec 32) {i : Nat} (h : i < 4) :
    commandWord opc (wordIndex i) = opc ||| BitVec.ofNat 32 (i * 256) := by
  rw [commandWord]
  interval_cases i <;> rfl

/-- Settles O58: the lines of the table are well formed exactly when index and number are in range, and the index of an
emitted word is that of the line. -/
theorem assemblerEmitsTheTable : Obligations.AssemblerEmitsTheTable := by
  intro c i v
  refine ⟨fun hi hv => ?_, fun hi => ?_, fun hv => ?_⟩
  · have hindex : indexOk i = true := decide_eq_true hi
    have hnumber : numberOk v = true := decide_eq_true hv
    simp [assemble, AsmLine.wf, AsmLine.commands, encode, commandWord_wordIndex _ hi, operandWord, hindex, hnumber]
  · have hindex : indexOk i = false := decide_eq_false (by omega)
    simp [assemble, AsmLine.wf, hindex]
  · have hnumber : numberOk v = false := decide_eq_false (by omega)
    simp [assemble, AsmLine.wf, hnumber]

end Machine

end Sys2Proof
end

section
/-! PROOF. INC and ADVANCE as integer operations (41_counter.md R160, R163): the value moves on modulo the range, and
the unimplemented words stay. -/

namespace Sys2Proof.Machine

/-- Settles O24: the carry chain of INC adds one, and runs over the implemented words only. -/
theorem incAddsOneModuloTheRange : Obligations.IncAddsOneModuloTheRange :=
  fun c q => ⟨inc_val c q, fun _ => inc_get_unimplemented⟩

/-- Settles O25: the carry chain of ADVANCE adds delta, and runs over the implemented words only. -/
theorem advanceAddsDeltaModuloTheRange : Obligations.AdvanceAddsDeltaModuloTheRange :=
  fun c d q => ⟨advance_val c d q, fun _ => advance_get_unimplemented⟩

end Sys2Proof.Machine
end

section
/-! PROOF. The mixing network (42_mixing_network.md R190 to R198): MIX is undone by its inverse, so a round is undone by
the inverses of its two calls, an injection by subtracting what it adds, and ENCRYPT is a bijection, being a chain of
them. -/

namespace Sys2Proof.Machine

section mix
variable {r : Nat} (hr : r < 64)
include hr

theorem rotl64_eq_rotateLeft (x : Word) : rotl64 x r = x.rotateLeft r := by
  rw [BitVec.rotateLeft_def, Nat.mod_eq_of_lt hr, rotl64]

/-- Rotating right undoes the rotation of R191. -/
theorem rotateRight_rotl64 (x : Word) : (rotl64 x r).rotateRight r = x := by
  rw [rotl64_eq_rotateLeft hr]
  ext i hi
  simp only [BitVec.getElem_rotateRight, BitVec.getElem_rotateLeft]
  grind

/-- Rotating by R191 undoes the right rotation. -/
theorem rotl64_rotateRight (x : Word) : rotl64 (x.rotateRight r) r = x := by
  rw [rotl64_eq_rotateLeft hr]
  ext i hi
  simp only [BitVec.getElem_rotateRight, BitVec.getElem_rotateLeft]
  grind

end mix

/-- The inverse that R190 gives for MIX. -/
def unmix (a b : Word) (rot : Nat) : Word × Word := (a - (b ^^^ a).rotateRight rot, (b ^^^ a).rotateRight rot)

section unmix
variable {r : Nat} (hr : r < 64) (a b : Word)
include hr

theorem unmix_mix : unmix (mix a b r).1 (mix a b r).2 r = (a, b) := by
  rw [unmix, mix]
  dsimp only
  rw [BitVec.xor_assoc, BitVec.xor_self, BitVec.xor_zero, rotateRight_rotl64 hr, BitVec.add_sub_cancel]

theorem mix_unmix : mix (unmix a b r).1 (unmix a b r).2 r = (a, b) := by
  rw [unmix, mix]
  dsimp only
  rw [rotl64_rotateRight hr, BitVec.sub_add_cancel, BitVec.xor_assoc, BitVec.xor_self, BitVec.xor_zero]

end unmix

/-- Settles O26: the second clause and the inverse are the rotation of R191 and its inverse. -/
theorem mixIsAddRotateXorAndInvertible : Obligations.MixIsAddRotateXorAndInvertible := by
  intro a b r hr
  have hinverse := unmix_mix hr a b
  rw [unmix, Prod.mk.injEq] at hinverse
  obtain ⟨ha, hb⟩ := hinverse
  exact ⟨rfl, congrArg (· ^^^ (a + b)) (rotl64_eq_rotateLeft hr b), hb, ha⟩

section round
variable (r : Nat)

/-- The rotation schedule as two columns (R192). -/
theorem rotation_eq :
    rotation r = (([14, 52, 23, 5, 25, 46, 58, 32] : List Nat).getD (r % 8) 0,
      ([16, 57, 40, 37, 33, 12, 22, 32] : List Nat).getD (r % 8) 0) := by
  have hr := Nat.mod_lt r (show 0 < 8 by decide)
  rw [rotation]
  generalize r % 8 = m at hr ⊢
  interval_cases m <;> rfl

theorem rotation_lt : (rotation r).1 < 64 ∧ (rotation r).2 < 64 := by
  have hr := Nat.mod_lt r (show 0 < 8 by decide)
  rw [rotation_eq]
  generalize r % 8 = m at hr ⊢
  interval_cases m <;> decide

variable {r}

theorem round_of_even (h : r % 2 = 0) (x : Quad) :
    round x r = ⟨(mix x.w0 x.w1 (rotation r).1).1, (mix x.w0 x.w1 (rotation r).1).2,
      (mix x.w2 x.w3 (rotation r).2).1, (mix x.w2 x.w3 (rotation r).2).2⟩ := if_pos h

theorem round_of_odd (h : r % 2 = 1) (x : Quad) :
    round x r = ⟨(mix x.w0 x.w3 (rotation r).1).1, (mix x.w2 x.w1 (rotation r).2).2,
      (mix x.w2 x.w1 (rotation r).2).1, (mix x.w0 x.w3 (rotation r).1).2⟩ := if_neg (by omega)

/-- A round is undone by undoing its two MIX calls (R198). -/
theorem round_bijective (r : Nat) : Function.Bijective (round · r) := by
  obtain ⟨h1, h2⟩ := rotation_lt r
  rw [Function.bijective_iff_has_inverse]
  obtain h | h := Nat.mod_two_eq_zero_or_one r
  · refine ⟨fun x => ⟨(unmix x.w0 x.w1 (rotation r).1).1, (unmix x.w0 x.w1 (rotation r).1).2,
      (unmix x.w2 x.w3 (rotation r).2).1, (unmix x.w2 x.w3 (rotation r).2).2⟩, fun x => ?_, fun x => ?_⟩
    · simp only [round_of_even h, unmix_mix h1, unmix_mix h2]
    · simp only [round_of_even h, mix_unmix h1, mix_unmix h2]
  · refine ⟨fun x => ⟨(unmix x.w0 x.w3 (rotation r).1).1, (unmix x.w2 x.w1 (rotation r).2).2,
      (unmix x.w2 x.w1 (rotation r).2).1, (unmix x.w0 x.w3 (rotation r).1).2⟩, fun x => ?_, fun x => ?_⟩
    · simp only [round_of_odd h, unmix_mix h1, unmix_mix h2]
    · simp only [round_of_odd h, mix_unmix h1, mix_unmix h2]

end round

/-- Settles O27: the two MIX calls of each parity, with the amounts of the schedule. -/
theorem roundMixesThePairsOfItsParity : Obligations.RoundMixesThePairsOfItsParity := by
  intro x r
  obtain ⟨h1, h2⟩ := rotation_lt r
  rw [rotation_eq] at h1 h2
  refine ⟨fun h => ?_, fun h => ?_⟩
  · simp only [round_of_even h, rotation_eq, mix, rotl64_eq_rotateLeft h1, rotl64_eq_rotateLeft h2]
  · simp only [round_of_odd h, rotation_eq, mix, rotl64_eq_rotateLeft h1, rotl64_eq_rotateLeft h2]

/-- The extended key as a list (R194). -/
theorem extendedKey_eq (k : Quad) (kp : Word) (j : Nat) :
    extendedKey k kp j = ([k.w0, k.w1, k.w2, k.w3, kp] : List Word).getD (j % 5) 0 := by
  have hj := Nat.mod_lt j (show 0 < 5 by decide)
  rw [extendedKey]
  generalize j % 5 = m at hj ⊢
  interval_cases m <;> rfl

/-- Settles O28: word by word, with the extended key as a list. -/
theorem injectAddsTheRotatedExtendedKey : Obligations.InjectAddsTheRotatedExtendedKey := by
  intro k x kp s i
  rw [← extendedKey_eq]
  fin_cases i <;> simp [inject, Quad.get]

/-- Word by word addition. -/
def addWords (d x : Quad) : Quad := ⟨x.w0 + d.w0, x.w1 + d.w1, x.w2 + d.w2, x.w3 + d.w3⟩

/-- Adding fixed words is undone by subtracting them. -/
theorem addWords_bijective (d : Quad) : Function.Bijective (addWords d) :=
  Function.bijective_iff_has_inverse.mpr
    ⟨fun x => ⟨x.w0 - d.w0, x.w1 - d.w1, x.w2 - d.w2, x.w3 - d.w3⟩, fun x => by simp [addWords],
      fun x => by simp [addWords]⟩

/-- An injection adds words that do not depend on the block (R195). -/
theorem inject_eq_addWords (k : Quad) (kp : Word) (x : Quad) (s : Nat) :
    inject k kp x s = addWords ⟨extendedKey k kp s, extendedKey k kp (s + 1), extendedKey k kp (s + 2),
      extendedKey k kp (s + 3) + BitVec.ofNat 64 s⟩ x := by
  rw [inject, addWords, BitVec.add_assoc]

section encrypt
variable (k : Quad) (kp : Word)

theorem roundAndInject_bijective (r : Nat) : Function.Bijective (roundAndInject k kp · r) := by
  by_cases h : r % 4 = 3
  · simp only [roundAndInject, if_pos h, inject_eq_addWords]
    exact (addWords_bijective _).comp (round_bijective r)
  · simp only [roundAndInject, if_neg h]
    exact round_bijective r

theorem runRounds_bijective (n : Nat) : Function.Bijective (runRounds k kp · n) := by
  induction n with
  | zero => exact Function.bijective_id
  | succ n ih => exact (roundAndInject_bijective k kp n).comp ih

end encrypt

/-- Settles O31: the initial injection adds the key words, and each pass of the loop is a bijection. -/
theorem encryptIsABijectionOfCounters : Obligations.EncryptIsABijectionOfCounters :=
  fun k kp n => (runRounds_bijective k kp n).comp (addWords_bijective k)

/-- Settles O29: the passes of the loop, with `(n + 1) mod 4 = 0` exactly when `n mod 4 = 3`. -/
theorem encryptInjectsAfterEveryFourthRoundOnly : Obligations.EncryptInjectsAfterEveryFourthRoundOnly :=
  fun _ _ _ _ => ⟨rfl, fun _ => if_pos (by omega), fun _ => if_neg (by omega)⟩

/-- Settles O30: the two known answers. -/
theorem encryptGivesTheKnownAnswers : Obligations.EncryptGivesTheKnownAnswers := ⟨encrypt_zero_20, encrypt_zero_13⟩

end Sys2Proof.Machine
end

section
/-! PROOF. Samples as fields of the block (43_output_extractor.md R230, R231, 20_memory.md R71, R72): bit `k` of the
block is a bit of word `k / 64`, and a field of the block is the little-endian sum of the narrower fields it holds. -/

namespace Sys2Proof

/-- Bit `k` of the block is bit `k mod 64` of word `k div 64`, word 0 the least significant (R71). -/
theorem Quad.getLsbD_b256 (q : Quad) {k : Nat} (hk : k < 256) :
    q.b256.getLsbD k = (([q.w0, q.w1, q.w2, q.w3] : List Word).getD (k / 64) 0).getLsbD (k % 64) := by
  have hword : k / 64 < 4 := by omega
  obtain ⟨i, hi⟩ : ∃ i, k / 64 = i := ⟨_, rfl⟩
  have hk' : k = 64 * i + k % 64 := by omega
  rw [hi] at hword ⊢
  simp only [b256, BitVec.getLsbD_append]
  interval_cases i
  · rw [if_pos (by omega)]
    exact congrArg _ (by omega)
  · rw [if_neg (by omega), if_pos (by omega)]
    exact congrArg _ (by omega)
  · rw [if_neg (by omega), if_neg (by omega), if_pos (by omega)]
    exact congrArg _ (by omega)
  · rw [if_neg (by omega), if_neg (by omega), if_neg (by omega)]
    exact congrArg _ (by omega)

namespace Machine

/-- A field of `W` bits lies within one word. -/
theorem field_div_mod (w : Width) (n : Nat) {j : Nat} (hj : j < w.bits) :
    (n * w.bits + j) / 64 = n * w.bits / 64 ∧ (n * w.bits + j) % 64 = n * w.bits % 64 + j := by
  cases w <;> simp only [Width.bits] at hj ⊢ <;> omega

/-- `S` samples fill the block. -/
theorem field_lt {w : Width} {n j : Nat} (hn : n < 256 / w.bits) (hj : j < w.bits) : n * w.bits + j < 256 := by
  cases w <;> simp only [Width.bits] at hn hj ⊢ <;> omega

/-- Bit `j` of sample `n` is bit `n·W + j` of the block (R230). -/
theorem getLsbD_extract {w : Width} {n j : Nat} (hn : n < 256 / w.bits) (hj : j < w.bits) (blk : Quad) :
    (extract w blk n).getLsbD j =
      (([blk.w0, blk.w1, blk.w2, blk.w3] : List Word).getD ((n * w.bits + j) / 64) 0).getLsbD
        ((n * w.bits + j) % 64) := by
  rw [extract, BitVec.getLsbD_extractLsb', decide_eq_true hj, Bool.true_and, Quad.getLsbD_b256 blk (field_lt hn hj)]

/-- Settles O32: the bits of the sample are those of the field, which stays within one word. -/
theorem extractSelectsTheFieldOfOneWord : Obligations.ExtractSelectsTheFieldOfOneWord := by
  intro w blk n j hn hj
  refine ⟨getLsbD_extract hn hj blk, BitVec.eq_of_getLsbD_eq fun i hi => ?_⟩
  obtain ⟨hdiv, hmod⟩ := field_div_mod w n hi
  rw [getLsbD_extract hn hi, hdiv, hmod, BitVec.getLsbD_setWidth, decide_eq_true hi, Bool.true_and,
    BitVec.getLsbD_ushiftRight]

/-- The low `w * m` bits of a number are the little-endian sum of `m` digits of `w` bits. -/
theorem sum_digits (x w m : Nat) :
    ((List.range m).map fun i => x / 2 ^ (w * i) % 2 ^ w * 2 ^ (w * i)).sum = x % 2 ^ (w * m) := by
  induction m with
  | zero => simp [Nat.mod_one]
  | succ m ih =>
    rw [List.range_succ, List.map_append, List.sum_append, ih, List.map_singleton, List.sum_singleton, Nat.mul_succ,
      Nat.pow_add, Nat.mod_mul, Nat.mul_comm (2 ^ (w * m))]

/-- A sample on the data path as an integer (R230, 30_encoding.md R97). -/
theorem zext64_extract_toNat (w : Width) (blk : Quad) (n : Nat) :
    (zext64 (extract w blk n)).toNat = blk.b256.toNat / 2 ^ (n * w.bits) % 2 ^ w.bits := by
  rw [zext64, BitVec.toNat_setWidth_of_le (bits_le w), extract, BitVec.extractLsb'_toNat, Nat.shiftRight_eq_div_pow]

/-- The `64 / W` narrow samples in a 64-bit sample lie in the same block, at its place. -/
theorem narrowIndex_div_mod (w : Width) (j : Nat) {i : Nat} (hi : i < 64 / w.bits) :
    (64 / w.bits * j + i) / w.S = j / Width.w64.S ∧
      (64 / w.bits * j + i) % w.S * w.bits = j % Width.w64.S * Width.w64.bits + w.bits * i := by
  cases w <;> simp only [Width.bits, Width.S, Width.log2S] at hi ⊢ <;> omega

/-- Block `b` of the numbered stream (R233). -/
def streamBlock (s : State) (b : Nat) : Quad :=
  encrypt (ctrOfVal s.cfg.cs ((s.ctrVal + b) % counterRange s.cfg)) s.keyWords (parity s.keyWords) s.cfg.rounds

/-- The stream cut into samples of another width, as integers: the blocks do not depend on the width. -/
theorem streamSample_width_toNat (s : State) (w : Width) (k : Nat) :
    (streamSample { s with cfg := { s.cfg with W := w } } k).toNat =
      (streamBlock s (k / w.S)).b256.toNat / 2 ^ (k % w.S * w.bits) % 2 ^ w.bits :=
  zext64_extract_toNat w (streamBlock s (k / w.S)) (k % w.S)

/-- Settles O33: both sides are fields of the same block, and the digits of a 64-bit field are the narrower fields. -/
theorem narrowSamplesRegroupIntoWideOnes : Obligations.NarrowSamplesRegroupIntoWideOnes := by
  intro s w j m
  have hwm : w.bits * m = Width.w64.bits := Nat.mul_div_cancel' (by cases w <;> decide)
  rw [streamSample_width_toNat, ← hwm, ← sum_digits]
  refine congrArg List.sum (List.map_congr_left fun i hi => ?_)
  obtain ⟨hblock, hfield⟩ := narrowIndex_div_mod w j (List.mem_range.mp hi)
  rw [streamSample_width_toNat, hblock, hfield, Nat.pow_add, Nat.div_div_eq_div_mul, hwm]

end Machine

end Sys2Proof
end

section
/-! PROOF. NEXT and DISCARD on the stream position (10_state.md R44) and against each other (44_engine.md R253). Both
move along the samples counted from the start of the block in hand: `State.atOffset p` is the state after sample `p - 1`
of them, DISCARD n goes from offset CUR to CUR + n at once, and NEXT goes on by one. -/

namespace Sys2Proof.Machine

/-- Settles O35: with cursor 0 the responses are the numbered stream from its start. -/
theorem nextYieldsTheSampleStream : Obligations.NextYieldsTheSampleStream := by
  intro s k h hCUR
  rw [issueAll_next h, hCUR]
  exact List.map_congr_left fun j _ => congrArg (fun n => Response.mk .ok (streamSample s n)) (Nat.zero_add j)

namespace State

/-- DISCARD moves the stream position by its operand (R44). -/
theorem streamPos_discardBy (s : State) (n : Word) :
    streamPos (s.discardBy n) = (streamPos s + n.toNat) % period s.cfg := by
  by_cases hn : n = 0
  · subst hn
    rw [discardBy_zero]
    exact (Nat.mod_mod _ _).symm
  · obtain ⟨hcfg, -⟩ := discardBy_frame s n
    have hpos : 0 < n.toNat := BitVec.toNat_pos_of_ne_zero hn
    have hoffset := Nat.div_add_mod (s.CUR.toNat + n.toNat - 1) s.cfg.S
    have hsum : (s.ctrVal + (s.CUR.toNat + n.toNat - 1) / s.cfg.S) * s.cfg.S +
        ((s.CUR.toNat + n.toNat - 1) % s.cfg.S + 1) = s.ctrVal * s.cfg.S + s.CUR.toNat + n.toNat := by
      rw [Nat.add_mul, Nat.mul_comm (_ / _)]
      omega
    rw [streamPos, streamPos, hcfg, s.ctrVal_discardBy hn, s.discardBy_CUR hn, discardPlan_cursor_toNat hn, period,
      Nat.mod_add_mod, ← hsum, ← Nat.mod_add_mod, Nat.mul_mod_mul_right, Nat.mod_mod, ← Nat.mul_mod_mul_right,
      Nat.mod_add_mod]

end State

/-- Settles O37: the responses do not take part in the stream position. -/
theorem commandsMoveTheStreamPosition : Obligations.CommandsMoveTheStreamPosition :=
  fun s n h => ⟨⟨_, s.exec_next, State.streamPos_afterNext h⟩, ⟨_, rfl, s.streamPos_discardBy n⟩⟩

/-- Two counter files with the same value and the same unimplemented words are the same. -/
theorem counter_eq_of_val_eq {n : Nat} {p q : Quad} (hval : p.val n = q.val n)
    (h : ∀ i : Fin 4, n ≤ i.val → p.get i = q.get i) : p = q := by
  refine Quad.ext_get fun i => ?_
  obtain hi | hi := Nat.lt_or_ge i.val n
  · have hwords : p.hardwire n = q.hardwire n := by rw [← ctrOfVal_val, ← ctrOfVal_val, hval]
    have hget := congrArg (Quad.get · i) hwords
    simpa only [Quad.get_hardwire, if_pos hi] using hget
  · exact h i hi

/-- INC after ADVANCE is ADVANCE by one more. -/
theorem inc_advance (c : Config) {m : Nat} (hm : m + 1 < 2 ^ 64) (q : Quad) :
    inc c (advance c (BitVec.ofNat 64 m) q) = advance c (BitVec.ofNat 64 (m + 1)) q := by
  refine counter_eq_of_val_eq (n := c.cs) ?_ fun i hi => ?_
  · rw [inc_val, advance_val, advance_val, BitVec.toNat_ofNat, BitVec.toNat_ofNat, Nat.mod_eq_of_lt hm,
      Nat.mod_eq_of_lt (Nat.lt_of_succ_lt hm), Nat.mod_add_mod, Nat.add_assoc]
  · rw [inc_get_unimplemented hi, advance_get_unimplemented hi, advance_get_unimplemented hi]

theorem inc_eq_advance_one (c : Config) (q : Quad) : inc c q = advance c 1 q := by
  have h := inc_advance c (m := 0) (by decide) q
  rwa [show BitVec.ofNat 64 0 = 0 from rfl, advance_zero] at h

namespace State

/-- The state at cursor `c` of the block `m` after the one in hand. -/
def atBlock (s : State) (m c : Nat) : State := { s.advanceBlocks (BitVec.ofNat 64 m) with CUR := BitVec.ofNat 6 c }

/-- The state `p` samples after the start of the block in hand, as NEXT and DISCARD leave it: up to `S` only the cursor
has moved, beyond it the counter too. -/
def atOffset (s : State) (p : Nat) : State :=
  if p ≤ s.cfg.S then { s with CUR := BitVec.ofNat 6 p } else s.atBlock ((p - 1) / s.cfg.S) ((p - 1) % s.cfg.S + 1)

/-- A cursor up to `S` fits in its six bits. -/
theorem toNat_ofNat_cursor {c : Config} {n : Nat} (h : n ≤ c.S) : (BitVec.ofNat 6 n).toNat = n := by
  have hS := S_le c
  exact Nat.mod_eq_of_lt (by omega)

section afterNext
variable (s : State)

/-- NEXT on a block that is not exhausted moves its cursor on. -/
theorem afterNext_cursor {c : Nat} (h : c < s.cfg.S) :
    afterNext { s with CUR := BitVec.ofNat 6 c } = { s with CUR := BitVec.ofNat 6 (c + 1) } := by
  have hlt : (BitVec.ofNat 6 c).toNat < s.cfg.S := (toNat_ofNat_cursor h.le).trans_lt h
  rw [afterNext_of_lt hlt, BitVec.ofNat_add]
  rfl

/-- NEXT on the exhausted block in hand. -/
theorem afterNext_exhausted : afterNext { s with CUR := BitVec.ofNat 6 s.cfg.S } = s.atBlock 1 1 := by
  have hge : s.cfg.S ≤ (BitVec.ofNat 6 s.cfg.S).toNat := (toNat_ofNat_cursor le_rfl).ge
  rw [afterNext_of_exhausted hge]
  exact congrArg (fun q => { recomputeBlock { s with CTR := q } with CUR := 1 }) (inc_eq_advance_one s.cfg s.CTR)

/-- NEXT on an exhausted later block. -/
theorem afterNext_atBlock_exhausted {m : Nat} (hm : m + 1 < 2 ^ 64) :
    (s.atBlock m s.cfg.S).afterNext = s.atBlock (m + 1) 1 := by
  have hge : s.cfg.S ≤ (BitVec.ofNat 6 s.cfg.S).toNat := (toNat_ofNat_cursor le_rfl).ge
  rw [afterNext_of_exhausted hge]
  exact congrArg (fun q => { recomputeBlock { s with CTR := q } with CUR := 1 }) (inc_advance s.cfg hm s.CTR)

end afterNext

section atOffset
variable {s : State} {p : Nat}

theorem atOffset_of_le (h : p ≤ s.cfg.S) : s.atOffset p = { s with CUR := BitVec.ofNat 6 p } := if_pos h

theorem atOffset_of_lt (h : s.cfg.S < p) :
    s.atOffset p = s.atBlock ((p - 1) / s.cfg.S) ((p - 1) % s.cfg.S + 1) := if_neg (Nat.not_le.mpr h)

/-- A state is at the offset of its own cursor. -/
theorem atOffset_CUR (h : s.cursorInRange) : s.atOffset s.CUR.toNat = s := by
  rw [atOffset_of_le h, BitVec.ofNat_toNat, BitVec.setWidth_eq]

/-- DISCARD moves the offset on by its operand. -/
theorem discardBy_eq_atOffset (h : s.cursorInRange) (n : Word) :
    s.discardBy n = s.atOffset (s.CUR.toNat + n.toNat) := by
  by_cases hn : n = 0
  · subst hn
    rw [discardBy_zero]
    exact (atOffset_CUR h).symm
  have hpos : 0 < n.toNat := BitVec.toNat_pos_of_ne_zero hn
  have hcursor : (discardPlan s.cfg s.CUR n).cursor = BitVec.ofNat 6 ((s.CUR.toNat + n.toNat - 1) % s.cfg.S + 1) := by
    rw [← discardPlan_cursor_toNat hn, BitVec.ofNat_toNat, BitVec.setWidth_eq]
  have hblocks : (discardPlan s.cfg s.CUR n).blocks = BitVec.ofNat 64 ((s.CUR.toNat + n.toNat - 1) / s.cfg.S) := by
    rw [← discardPlan_blocks_toNat hn, BitVec.ofNat_toNat, BitVec.setWidth_eq]
  have hzero := discardPlan_blocks_eq_zero_iff (c := s.cfg) (cur := s.CUR) hn
  obtain hlt | hle := Nat.lt_or_ge s.cfg.S (s.CUR.toNat + n.toNat)
  · rw [discardBy_of_blocks_ne_zero s hn (hzero.not.mpr (Nat.div_pos (by omega) (S_pos s.cfg)).ne'), hcursor, hblocks,
      atOffset_of_lt hlt]
    rfl
  · rw [discardBy_of_blocks_eq_zero s hn (hzero.mpr (Nat.div_eq_of_lt (by omega))), hcursor, atOffset_of_le hle,
      Nat.mod_eq_of_lt (by omega), Nat.sub_add_cancel (by omega)]

/-- NEXT moves the offset on by one. -/
theorem afterNext_atOffset (hp : p < 2 ^ 65) : (s.atOffset p).afterNext = s.atOffset (p + 1) := by
  have hS := four_le_S s.cfg
  obtain hlt | heq | hgt := Nat.lt_trichotomy p s.cfg.S
  · rw [atOffset_of_le hlt.le, atOffset_of_le (show p + 1 ≤ _ from hlt), s.afterNext_cursor hlt]
  · rw [atOffset_of_le heq.le, atOffset_of_lt (by omega), heq, s.afterNext_exhausted, Nat.add_sub_cancel,
      Nat.div_self (by omega), Nat.mod_self]
  · obtain ⟨k, rfl⟩ := Nat.exists_eq_add_of_le' (show 1 ≤ p by omega)
    have hk := Nat.div_add_mod k s.cfg.S
    have hr : k % s.cfg.S < s.cfg.S := Nat.mod_lt _ (by omega)
    rw [atOffset_of_lt hgt, atOffset_of_lt (by omega), Nat.add_sub_cancel, Nat.add_sub_cancel]
    obtain hmore | hfull := Nat.lt_or_eq_of_le (Nat.succ_le_of_lt hr)
    · obtain ⟨hdiv, hmod⟩ : (k + 1) / s.cfg.S = k / s.cfg.S ∧ (k + 1) % s.cfg.S = k % s.cfg.S + 1 :=
        (Nat.div_mod_unique (by omega)).mpr ⟨by omega, hmore⟩
      rw [hdiv, hmod]
      exact (s.advanceBlocks _).afterNext_cursor hmore
    · obtain ⟨hdiv, hmod⟩ : (k + 1) / s.cfg.S = k / s.cfg.S + 1 ∧ (k + 1) % s.cfg.S = 0 :=
        (Nat.div_mod_unique (by omega)).mpr ⟨by rw [Nat.mul_succ]; omega, by omega⟩
      have hquarter : k / s.cfg.S ≤ k / 4 := Nat.div_le_div_left hS (by decide)
      have hm : k / s.cfg.S + 1 < 2 ^ 64 := by omega
      rw [hdiv, hmod, ← Nat.succ_eq_add_one (k % _), hfull, s.afterNext_atBlock_exhausted hm]

end atOffset

end State

/-- NEXT commands in a row move the offset on by their number, whatever the port holds. -/
theorem execAll_next_atOffset (s : State) (n : Nat) {p : Nat} (hp : p + n ≤ 2 ^ 65) (q : Port) :
    ∃ q', execAll (List.replicate n .next) { s.atOffset p with port := q } =
      .next { s.atOffset (p + n) with port := q' } := by
  induction n generalizing p q with
  | zero => exact ⟨q, rfl⟩
  | succ n ih =>
    obtain ⟨q', hrest⟩ := ih (p := p + 1) (by omega) (.responding ⟨.ok, _⟩)
    refine ⟨q', ?_⟩
    rw [List.replicate_succ, execAll, State.exec_next, State.afterNext_port_update,
      State.afterNext_atOffset (by omega)]
    rw [Nat.add_assoc, Nat.add_comm 1] at hrest
    exact hrest

/-- Settles O11: both end at offset CUR + n. -/
theorem discardEqualsRepeatedNext : Obligations.DiscardEqualsRepeatedNext := by
  intro s n h
  have hn := n.isLt
  have hCUR := s.CUR.isLt
  obtain ⟨q, hq⟩ := execAll_next_atOffset s n.toNat (p := s.CUR.toNat) (by omega) s.port
  rw [State.atOffset_CUR h] at hq
  have hregs : (s.discardBy n).regs = (s.atOffset (s.CUR.toNat + n.toNat)).regs :=
    congrArg State.regs (State.discardBy_eq_atOffset h n)
  exact ⟨_, _, rfl, hq, hregs⟩

end Sys2Proof.Machine
end

section
/-! PROOF. The invariants (10_state.md R37). Each operation of the block that writes a register keeps them, so every
command does, and with that every step and every clock edge. What the outside agents hold takes no part in them. -/

namespace Sys2Proof.Machine

theorem get_zero (i : Fin 4) : Quad.zero.get i = 0 := by fin_cases i <;> rfl

namespace State

/-- Recomputing the block establishes its invariant. -/
theorem inv_recomputeBlock {s : State} (hKP : s.parityConsistent) (hCUR : s.cursorInRange) (hzero : s.unimplementedZero)
    (hport : s.port.wf s.cfg = true) : s.recomputeBlock.Inv := by
  obtain ⟨hK, hCTR⟩ := hzero
  refine ⟨hKP, ?_, hCUR, ⟨hK, hCTR⟩, hport⟩
  change encrypt (s.CTR.hardwire s.cfg.cs) (s.K.hardwire s.cfg.ks) s.KP s.cfg.rounds = _
  rw [Quad.hardwire_eq_self hCTR, Quad.hardwire_eq_self hK]
  rfl

/-- The key-change tail establishes the invariants from any key whose unimplemented words are zero (R132). -/
theorem inv_keyChangeTail {s : State} (hK : ∀ i : Fin 4, s.cfg.ks ≤ i.val → s.K.get i = 0)
    (hport : s.port.wf s.cfg = true) : s.keyChangeTail.Inv :=
  inv_recomputeBlock (s := { s with KP := parity s.keyWords, CTR := Quad.zero, CUR := 0 })
    (congrArg parity (Quad.hardwire_eq_self hK)) (Nat.zero_le _) ⟨hK, fun i _ => get_zero i⟩ hport

theorem inv_loadKey {s : State} {ws : List Word} (h : ws.length ≤ s.cfg.ks) (hport : s.port.wf s.cfg = true) :
    (s.loadKey ws).Inv :=
  inv_keyChangeTail (s := { s with K := Quad.ofList ws })
    (fun i hi => by rw [Quad.get_ofList, List.getD_eq_default _ _ (h.trans hi)]) hport

theorem inv_resetOf (c : Config) : (State.resetOf c).Inv :=
  ⟨rfl, rfl, Nat.zero_le _, ⟨fun i _ => get_zero i, fun i _ => get_zero i⟩, rfl⟩

theorem inv_resetBlock (s : State) : s.resetBlock.Inv := (inv_resetOf s.cfg).port rfl

section Inv
variable {s : State} (h : s.Inv)
include h

theorem Inv.respond (st : Status) (d : Word) : (s.respond st d).Inv := h.port rfl

/-- A command writes an unimplemented word of no file. -/
theorem Inv.keyChangeTail_set {i : Fin 4} (hi : i.val < s.cfg.ks) (v : Word) :
    (keyChangeTail { s with K := s.K.set i v }).Inv := by
  obtain ⟨-, -, -, ⟨hK, -⟩, hport⟩ := h
  refine inv_keyChangeTail (fun j hj => ?_) hport
  have hne : j ≠ i := by rintro rfl; exact Nat.not_lt.mpr hj hi
  rw [Quad.get_set, if_neg hne, hK j hj]

theorem Inv.recomputeBlock_set {i : Fin 4} (hi : i.val < s.cfg.cs) (v : Word) :
    (recomputeBlock { s with CTR := s.CTR.set i v, CUR := 0 }).Inv := by
  obtain ⟨hKP, -, -, ⟨hK, hCTR⟩, hport⟩ := h
  refine inv_recomputeBlock hKP (Nat.zero_le _) ⟨hK, fun j hj => ?_⟩ hport
  have hne : j ≠ i := by rintro rfl; exact Nat.not_lt.mpr hj hi
  exact (Quad.get_set s.CTR i j v).trans ((if_neg hne).trans (hCTR j hj))

theorem Inv.advanceBlocks (q : Word) : (s.advanceBlocks q).Inv := by
  obtain ⟨hKP, -, hCUR, ⟨hK, hCTR⟩, hport⟩ := h
  exact inv_recomputeBlock hKP hCUR
    ⟨hK, fun i hi => (advance_get_unimplemented hi).trans (hCTR i hi)⟩ hport

theorem Inv.discardBy (n : Word) : (s.discardBy n).Inv := by
  by_cases hn : n = 0
  · subst hn
    exact h
  have hcursor : (discardPlan s.cfg s.CUR n).cursor.toNat ≤ s.cfg.S := by
    rw [discardPlan_cursor_toNat hn]
    exact Nat.mod_lt _ (S_pos s.cfg)
  by_cases hq : (discardPlan s.cfg s.CUR n).blocks = 0
  · rw [discardBy_of_blocks_eq_zero s hn hq]
    exact h.cursor hcursor
  · rw [discardBy_of_blocks_ne_zero s hn hq]
    exact (h.advanceBlocks _).cursor hcursor

/-- A SEEDS begins with an empty buffer. -/
theorem Inv.beginSeeds : State.Inv { s with port := .seeding false [] } :=
  h.port (decide_eq_true (Nat.zero_le s.cfg.ks))

theorem Inv.seedProceed : s.seedProceed.Inv := by
  obtain ⟨buf, -, hlt, heq⟩ | ⟨buf, -, -, heq⟩ | ⟨-, heq⟩ | ⟨-, -, heq⟩ := s.seedProceed_cases
  · rw [heq]
    exact h.port (decide_eq_true hlt)
  · rw [heq]
    obtain ⟨-, -, -, -, hport⟩ := h
    exact (inv_loadKey (List.length_take_le _ _) hport).respond .ok 0
  · rw [heq]
    exact h.respond .seedExhausted 0
  · rw [heq]
    exact h

/-- A request is outstanding only while another word fits. -/
theorem Inv.seedTake {buf : List Word} (hbuf : s.port = .seeding true buf) (a : SeedAnswer) :
    (s.seedTake buf a).Inv := by
  cases a with
  | eos => exact h.port rfl
  | word v =>
    obtain ⟨-, -, -, -, hport⟩ := id h
    rw [hbuf] at hport
    have hlt : buf.length < s.cfg.ks := of_decide_eq_true hport
    exact h.port (decide_eq_true (by rw [List.length_append]; exact hlt))

theorem Inv.seedRun (as : List SeedAnswer) : (seedRun as s).Inv := by
  induction as generalizing s with
  | nil => exact h
  | cons a as ih =>
    by_cases hreq : ∃ buf, s.port = .seeding true buf
    · obtain ⟨buf, hbuf⟩ := hreq
      rw [seedRun_cons hbuf]
      exact ih (h.seedTake hbuf a).seedProceed
    · rw [seedRun_of_no_request fun buf hbuf => hreq ⟨buf, hbuf⟩]
      exact h

theorem Inv.seedPull : s.seedPull.Inv := h.seedProceed.seedRun s.env.seeds

end Inv

end State

/-- Every command keeps the invariants (R37). -/
theorem exec_keeps_inv {s t : State} (h : s.Inv) {i : Instr} (ht : exec i s = .next t) : t.Inv := by
  cases i with
  | next =>
    obtain rfl := Host.Outcome.next.inj (s.exec_next.symm.trans ht)
    exact h.afterNext.respond _ _
  | discard n =>
    obtain rfl := Host.Outcome.next.inj ht
    exact (h.discardBy n).respond _ _
  | seedi v =>
    obtain rfl := Host.Outcome.next.inj ht
    obtain ⟨-, -, -, -, hport⟩ := h
    refine (State.inv_loadKey ?_ hport).respond _ _
    split
    · assumption
    · exact Nat.zero_le _
  | seeds =>
    obtain rfl := Host.Outcome.next.inj ht
    exact h.beginSeeds.seedPull
  | keywr i v =>
    obtain hi | hi := Nat.lt_or_ge i.val s.cfg.ks
    · obtain rfl := Host.Outcome.next.inj ((execKeywr_of_lt v hi).symm.trans ht)
      exact (h.keyChangeTail_set hi v).respond _ _
    · obtain rfl := Host.Outcome.next.inj ((execKeywr_of_le v hi).symm.trans ht)
      exact h.respond _ _
  | ctrwr i v =>
    obtain hi | hi := Nat.lt_or_ge i.val s.cfg.cs
    · obtain rfl := Host.Outcome.next.inj ((execCtrwr_of_lt v hi).symm.trans ht)
      exact (h.recomputeBlock_set hi v).respond _ _
    · obtain rfl := Host.Outcome.next.inj ((execCtrwr_of_le v hi).symm.trans ht)
      exact h.respond _ _
  | curwr p =>
    obtain hp | hp := Nat.lt_or_ge s.cfg.S p.toNat
    · obtain rfl := Host.Outcome.next.inj ((execCurwr_of_lt hp).symm.trans ht)
      exact h.respond _ _
    · obtain rfl := Host.Outcome.next.inj ((execCurwr_of_le hp).symm.trans ht)
      exact (h.cursor ((State.toNat_ofNat_cursor hp).trans_le hp)).respond _ _
  | nop | keyrd | ctrrd | currd | blkrd | inford =>
    obtain rfl := Host.Outcome.next.inj ht
    exact h.respond _ _

theorem runLatched_keeps_inv {s t : State} (h : s.Inv) {c : Command} (ht : runLatched c s = .next t) : t.Inv := by
  cases hc : decode c with
  | none =>
    obtain rfl := Host.Outcome.next.inj ((runLatched_of_decode_none hc).symm.trans ht)
    exact h.respond _ _
  | some i => exact exec_keeps_inv h ((runLatched_of_decode hc).symm.trans ht)

/-- Settles O39: the reset state of the standard configuration is one of them. -/
theorem resetMeetsTheInvariants : Obligations.ResetMeetsTheInvariants :=
  ⟨State.inv_resetOf, State.inv_resetOf Config.standard⟩

/-- Settles O40: whatever the port is at, the step is made of operations that keep the invariants. -/
theorem stepKeepsTheInvariants : Obligations.StepKeepsTheInvariants := by
  intro s t h ht
  unfold step at ht
  split at ht
  · cases ht
    exact s.inv_resetBlock
  split at ht
  · cases ht
    exact h.port rfl
  · cases ht
    unfold State.accept
    split
    · exact h
    · exact h.port rfl
  · exact runLatched_keeps_inv h ht
  · cases ht
    exact h.seedPull
  · cases ht
    exact h.seedPull
  · cases ht
    unfold State.deliver
    split
    · exact h.port rfl
    · exact h

namespace State
section edges
variable {s : State} (h : s.Inv) (e : Edge)
include h

theorem Inv.finishCommand (c : Command) : (s.finishCommand c).Inv := by
  unfold State.finishCommand
  split
  · exact h.respond _ _
  · exact h.beginSeeds.seedProceed
  · next i _ _ =>
    obtain ⟨t, ht, -⟩ := exec_keeps_cfg i s
    rw [ht]
    exact exec_keeps_inv h ht

theorem Inv.commandEdge (c : Command) : (s.commandEdge e c).Inv := by
  unfold State.commandEdge
  split
  · exact h.finishCommand c
  · exact h

theorem Inv.acceptPins : (s.acceptPins e).Inv := by
  unfold State.acceptPins
  split
  · exact (h.port rfl).commandEdge e _
  · exact h

theorem Inv.seedWork : (s.seedWork e).Inv := by
  unfold State.seedWork
  split
  · exact h.seedProceed
  · exact h

theorem Inv.seedEdge {buf : List Word} (hbuf : s.port = .seeding true buf) : (s.seedEdge e buf).Inv := by
  unfold State.seedEdge
  split
  · dsimp only
    split
    · exact (h.seedTake hbuf _).seedWork e
    · exact h.seedTake hbuf _
  · exact h

end edges
end State

/-- Settles O41: whatever the port is at, the edge is made of operations that keep the invariants. -/
theorem clockEdgeKeepsTheInvariants : Obligations.ClockEdgeKeepsTheInvariants := by
  intro s e h
  unfold clockEdge
  split
  · unfold State.resetEdge
    split
    · exact s.inv_resetBlock.port rfl
    · exact s.inv_resetBlock
  split
  · split
    · exact h.port rfl
    · exact h
  · exact h.acceptPins e
  · exact h.commandEdge e _
  · next hbuf => exact h.seedEdge e hbuf
  · exact h.seedWork e
  · exact h.seedWork e
  · split
    · exact h.port rfl
    · exact h

end Sys2Proof.Machine
end

section
/-! PROOF. What a command does not depend on. Its effect and its response are a function of the configuration, the
registers and the seed answers to come: the port it starts from and the rest of what the outside agents hold take no
part, and no command changes what they hold but by consuming seed answers. -/

namespace Sys2Proof.Machine

namespace State
section updates
variable (s : State) (e : Env)

theorem afterNext_env_update : afterNext { s with env := e } = { s.afterNext with env := e } := by
  unfold afterNext
  split <;> rfl

theorem discardBy_env_update (n : Word) : discardBy { s with env := e } n = { s.discardBy n with env := e } := by
  unfold discardBy
  split
  · rfl
  · dsimp only
    split <;> rfl

theorem discardBy_port_update (p : Port) (n : Word) :
    discardBy { s with port := p } n = { s.discardBy n with port := p } := by
  unfold discardBy
  split
  · rfl
  · dsimp only
    split <;> rfl

theorem seedTake_env_update (buf : List Word) (a : SeedAnswer) :
    seedTake { s with env := e } buf a = { s.seedTake buf a with env := e } := by
  cases a <;> rfl

theorem seedProceed_env_update : seedProceed { s with env := e } = { s.seedProceed with env := e } := by
  obtain ⟨cfg, K, KP, CTR, BLK, CUR, port, env⟩ := s
  cases port with
  | seeding req buf =>
    cases req with
    | true => rfl
    | false =>
      dsimp only [seedProceed]
      split <;> rfl
  | starting | idle | busy | seedEnded | responding => rfl

/-- The seed pulls leave their trace in the seed answers only. -/
theorem seedRun_env_update (as : List SeedAnswer) :
    seedRun as { s with env := e } =
      { seedRun as s with env := { e with seeds := (seedRun as s).env.seeds } } := by
  induction as generalizing s with
  | nil => rfl
  | cons a as ih =>
    by_cases hreq : ∃ buf, s.port = .seeding true buf
    · obtain ⟨buf, hbuf⟩ := hreq
      rw [seedRun_cons hbuf, seedRun_cons (s := { s with env := e }) hbuf, seedTake_env_update, seedProceed_env_update,
        ih]
    · have hnone : ∀ buf, s.port ≠ .seeding true buf := fun buf hbuf => hreq ⟨buf, hbuf⟩
      rw [seedRun_of_no_request hnone, seedRun_of_no_request (s := { s with env := e }) hnone]

theorem seedRun_env (as : List SeedAnswer) :
    (seedRun as s).env = { s.env with seeds := (seedRun as s).env.seeds } :=
  congrArg State.env (s.seedRun_env_update s.env as)

/-- The answers are those of the list, not those the state still holds. -/
theorem seedRun_withSeedsLeft (as rest : List SeedAnswer) : seedRun as (s.withSeedsLeft rest) = seedRun as s := by
  have henv := s.seedRun_env as
  rw [withSeedsLeft, seedRun_env_update]
  exact congrArg (fun e => { seedRun as s with env := e }) henv.symm

end updates
end State

section commands
variable {s t : State}

/-- A command other than SEEDS responds at once, whatever the outside holds, and leaves it alone. -/
theorem exec_responds {i : Instr} (hi : i ≠ .seeds) (s : State) :
    ∃ (u : State) (r : Response), ∀ e : Env,
      exec i { s with env := e } = .next { u with port := .responding r, env := e } := by
  cases i with
  | nop => exact ⟨s, ⟨.ok, 0⟩, fun _ => rfl⟩
  | next =>
    refine ⟨s.afterNext, ⟨.ok, s.afterNext.sample (s.afterNext.CUR.toNat - 1)⟩, fun e => ?_⟩
    rw [State.exec_next, State.afterNext_env_update]
    rfl
  | discard n =>
    exact ⟨s.discardBy n, ⟨.ok, 0⟩,
      fun e => congrArg (fun u => Host.Outcome.next (State.respond u .ok 0)) (s.discardBy_env_update e n)⟩
  | seedi v => exact ⟨s.loadKey (if 1 ≤ s.cfg.ks then [v] else []), ⟨.ok, 0⟩, fun _ => rfl⟩
  | seeds => exact absurd rfl hi
  | keywr i v =>
    obtain hi | hi := Nat.lt_or_ge i.val s.cfg.ks
    · exact ⟨State.keyChangeTail { s with K := s.K.set i v }, ⟨.ok, 0⟩, fun _ => execKeywr_of_lt v hi⟩
    · exact ⟨s, ⟨.illegalIndex, 0⟩, fun _ => execKeywr_of_le v hi⟩
  | keyrd i => exact ⟨s, ⟨.ok, s.keyWords.get i⟩, fun _ => rfl⟩
  | ctrwr i v =>
    obtain hi | hi := Nat.lt_or_ge i.val s.cfg.cs
    · exact ⟨State.recomputeBlock { s with CTR := s.CTR.set i v, CUR := 0 }, ⟨.ok, 0⟩,
        fun _ => execCtrwr_of_lt v hi⟩
    · exact ⟨s, ⟨.illegalIndex, 0⟩, fun _ => execCtrwr_of_le v hi⟩
  | ctrrd i => exact ⟨s, ⟨.ok, s.ctrWords.get i⟩, fun _ => rfl⟩
  | curwr p =>
    obtain hp | hp := Nat.lt_or_ge s.cfg.S p.toNat
    · exact ⟨s, ⟨.illegalOperand, 0⟩, fun _ => execCurwr_of_lt hp⟩
    · exact ⟨{ s with CUR := BitVec.ofNat 6 p.toNat }, ⟨.ok, 0⟩, fun _ => execCurwr_of_le hp⟩
  | currd => exact ⟨s, ⟨.ok, zext64 s.CUR⟩, fun _ => rfl⟩
  | blkrd i => exact ⟨s, ⟨.ok, s.BLK.get i⟩, fun _ => rfl⟩
  | inford i => exact ⟨s, ⟨.ok, infoRegister s.cfg s.KP i⟩, fun _ => rfl⟩

/-- What a command other than SEEDS does, stated of its next state. -/
theorem exec_of_ne_seeds {i : Instr} (hi : i ≠ .seeds) (ht : exec i s = .next t) :
    (∃ r, t.port = .responding r) ∧ t.env = s.env ∧
      ∀ e : Env, exec i { s with env := e } = .next { t with env := e } := by
  obtain ⟨u, r, hu⟩ := exec_responds hi s
  obtain rfl := Host.Outcome.next.inj ((hu s.env).symm.trans ht)
  exact ⟨⟨r, rfl⟩, rfl, hu⟩

/-- A command sets the port afresh. -/
theorem exec_port_update (i : Instr) (s : State) (p : Port) : exec i { s with port := p } = exec i s := by
  cases i with
  | next =>
    rw [State.exec_next, State.exec_next, State.afterNext_port_update]
    rfl
  | discard n =>
    have hstate := congrArg (State.respond · .ok 0) (s.discardBy_port_update p n)
    exact congrArg Host.Outcome.next hstate
  | nop | seedi | seeds | keywr | keyrd | ctrwr | ctrrd | curwr | currd | blkrd | inford => rfl

theorem runLatched_port_update (c : Command) (s : State) (p : Port) :
    runLatched c { s with port := p } = runLatched c s := by
  cases hc : decode c with
  | none => rw [runLatched_of_decode_none hc, runLatched_of_decode_none hc]; rfl
  | some i => rw [runLatched_of_decode hc, runLatched_of_decode hc, exec_port_update]

/-- A command reads the seed answers of the outside and nothing else of it. -/
theorem runLatched_env_update {c : Command} (ht : runLatched c s = .next t) (e : Env) :
    runLatched c { s with env := { e with seeds := s.env.seeds } } =
      .next { t with env := { e with seeds := t.env.seeds } } := by
  cases hc : decode c with
  | none =>
    obtain rfl := Host.Outcome.next.inj ((runLatched_of_decode_none hc).symm.trans ht)
    exact runLatched_of_decode_none hc
  | some i =>
    rw [runLatched_of_decode hc] at ht ⊢
    by_cases hi : i = .seeds
    · subst hi
      obtain rfl := Host.Outcome.next.inj ht
      change Host.Outcome.next (State.seedRun s.env.seeds (State.seedProceed
        { s.seedingWith [] with env := { e with seeds := s.env.seeds } })) = _
      rw [State.seedProceed_env_update, State.seedRun_env_update]
      rfl
    · obtain ⟨-, henv, hupdate⟩ := exec_of_ne_seeds hi ht
      rw [hupdate, henv]

/-- A command changes what the outside holds by consuming seed answers only. -/
theorem runLatched_env {c : Command} (ht : runLatched c s = .next t) : t.env = { s.env with seeds := t.env.seeds } :=
  congrArg State.env (Host.Outcome.next.inj (ht.symm.trans (runLatched_env_update ht s.env)))

/-- A command that responds makes a whole transaction (30_encoding.md R91 to R93). -/
theorem issue_of_responding {c : Command} {r : Response} (ht : runLatched c s = .next t) (hr : t.port = .responding r) :
    issue c s = some (r, { t with port := .idle }) := by
  rw [issue, runLatched_port_update, ht]
  dsimp only
  rw [hr]

/-- A command that does not respond makes none. -/
theorem issue_of_not_responding {c : Command} (ht : runLatched c s = .next t) (hr : ∀ r, t.port ≠ .responding r) :
    issue c s = none := by
  rw [issue, runLatched_port_update, ht]
  dsimp only
  split
  · next r h => exact absurd h (hr r)
  · rfl

/-- A transaction is a command that responds, and leaves the block idle. -/
theorem issue_eq_some {c : Command} {r : Response} :
    issue c s = some (r, t) ↔
      ∃ u, runLatched c s = .next u ∧ u.port = .responding r ∧ t = { u with port := .idle } := by
  constructor
  · intro h
    obtain ⟨u, hu, -⟩ := runLatched_keeps_cfg c s
    by_cases hr : ∃ r', u.port = .responding r'
    · obtain ⟨r', hr'⟩ := hr
      rw [issue_of_responding hu hr'] at h
      cases h
      exact ⟨u, hu, hr', rfl⟩
    · rw [issue_of_not_responding hu fun r' hr' => hr ⟨r', hr'⟩] at h
      cases h
  · rintro ⟨u, hu, hr, rfl⟩
    exact issue_of_responding hu hr

end commands

section regs
variable {s t : State} (hcfg : s.cfg = t.cfg) (hregs : s.regs = t.regs)
include hcfg hregs

/-- Blocks with the same configuration and registers differ in their ports and their outside only. -/
theorem State.eq_update_of_regs_eq : t = { s with port := t.port, env := t.env } := by
  rw [State.regs, State.regs, Regs.mk.injEq] at hregs
  obtain ⟨hK, hKP, hCTR, hBLK, hCUR⟩ := hregs
  rw [hcfg, hK, hKP, hCTR, hBLK, hCUR]

/-- They compare equal (10_state.md R38). -/
theorem engineEq_of_regs_eq : engineEq s t := by
  rw [State.eq_update_of_regs_eq hcfg hregs]
  exact ⟨rfl, rfl, rfl, rfl⟩

end regs

/-- Two states that no command can tell apart: the same configuration, registers and seed answers to come. -/
def SameBlock (s t : State) : Prop := s.cfg = t.cfg ∧ s.regs = t.regs ∧ s.env.seeds = t.env.seeds

section SameBlock
variable {s t : State}

theorem SameBlock.eq_update (h : SameBlock s t) :
    t = { s with port := t.port, env := { t.env with seeds := s.env.seeds } } := by
  obtain ⟨hcfg, hregs, hseeds⟩ := h
  rw [hseeds]
  exact State.eq_update_of_regs_eq hcfg hregs

/-- A command does the same to both. -/
theorem SameBlock.runLatched_eq (h : SameBlock s t) {c : Command} {u : State} (hu : runLatched c s = .next u) :
    runLatched c t = .next { u with env := { t.env with seeds := u.env.seeds } } := by
  rw [h.eq_update, runLatched_port_update (s := { s with env := { t.env with seeds := s.env.seeds } })]
  exact runLatched_env_update hu t.env

/-- Both make the same transaction, or neither makes one. -/
theorem SameBlock.issue_cases (h : SameBlock s t) (c : Command) :
    (issue c s = none ∧ issue c t = none) ∨
      ∃ r u v, issue c s = some (r, u) ∧ issue c t = some (r, v) ∧ SameBlock u v := by
  obtain ⟨u, hu, -⟩ := runLatched_keeps_cfg c s
  have hv := h.runLatched_eq hu
  by_cases hr : ∃ r, u.port = .responding r
  · obtain ⟨r, hr⟩ := hr
    exact .inr ⟨r, _, _, issue_of_responding hu hr, issue_of_responding hv hr, rfl, rfl, rfl⟩
  · have hnone : ∀ r, u.port ≠ .responding r := fun r hr' => hr ⟨r, hr'⟩
    exact .inl ⟨issue_of_not_responding hu hnone, issue_of_not_responding hv hnone⟩

/-- Every command sequence has the same responses on both, and leaves them indistinguishable. -/
theorem SameBlock.issueAll_eq (h : SameBlock s t) (cs : List Command) :
    (issueAll cs s).1 = (issueAll cs t).1 ∧ SameBlock (issueAll cs s).2 (issueAll cs t).2 := by
  induction cs generalizing s t with
  | nil => exact ⟨rfl, h⟩
  | cons c cs ih =>
    obtain ⟨hs, ht⟩ | ⟨r, u, v, hs, ht, huv⟩ := h.issue_cases c
    · rw [issueAll, issueAll, hs, ht]
      exact ⟨rfl, h⟩
    · obtain ⟨hrs, hend⟩ := ih huv
      rw [issueAll, issueAll, hs, ht]
      exact ⟨congrArg (List.cons r) hrs, hend⟩

end SameBlock

/-- The invariants determine the registers from the configuration, the key, the counter and the cursor (R37). -/
theorem State.Inv.regs_eq {s t : State} (hs : s.Inv) (ht : t.Inv) (hcfg : t.cfg = s.cfg) (hK : t.K = s.K)
    (hCTR : t.CTR = s.CTR) (hCUR : t.CUR = s.CUR) : t.regs = s.regs := by
  obtain ⟨hKPs, hBLKs, -⟩ := hs
  obtain ⟨hKPt, hBLKt, -⟩ := ht
  have hKP : t.KP = s.KP := by rw [hKPt, hKPs, hK]
  have hBLK : t.BLK = s.BLK := by rw [hBLKt, hBLKs, hCTR, hK, hKP, hcfg]
  rw [State.regs, State.regs, hK, hKP, hCTR, hBLK, hCUR]

/-- Settles O48: blocks that meet the invariants and compare equal have the same registers. -/
theorem equalBlocksRespondAlike : Obligations.EqualBlocksRespondAlike := by
  rintro s t cs hs ht ⟨hcfg, hK, hCTR, hCUR⟩ hseeds
  rw [hs.keyWords_eq, ht.keyWords_eq] at hK
  rw [hs.ctrWords_eq, ht.ctrWords_eq] at hCTR
  have hsame : SameBlock s t := ⟨hcfg, ht.regs_eq hs hcfg hK hCTR hCUR, hseeds⟩
  obtain ⟨hresponses, hendcfg, hendregs, -⟩ := hsame.issueAll_eq cs
  exact ⟨hresponses, engineEq_of_regs_eq hendcfg hendregs⟩

end Sys2Proof.Machine
end

section
/-! PROOF. SERIALIZE and DESERIALIZE (44_engine.md R259, 30_encoding.md R106). A list of reads returns the words read
and changes the port only; a list of writes of words 0, 1, … of a file is followed word by word, and in the end the file
is the one that was read. -/

namespace Sys2Proof.Machine

section issueAll
variable {s t u : State} {rs : List Response}

theorem issueAll_cons {c : Command} {r : Response} (hc : issue c s = some (r, t)) (cs : List Command) :
    issueAll (c :: cs) s = (r :: (issueAll cs t).1, (issueAll cs t).2) := by
  rw [issueAll, hc]

/-- Sequences that are answered to their end can be taken one after the other. -/
theorem issueAll_append {as bs : List Command} (h : issueAll as s = (rs, t)) (hlen : rs.length = as.length) :
    issueAll (as ++ bs) s = (rs ++ (issueAll bs t).1, (issueAll bs t).2) := by
  induction as generalizing s rs with
  | nil =>
    cases h
    rfl
  | cons c as ih =>
    cases hc : issue c s with
    | none =>
      rw [issueAll, hc] at h
      cases h
      cases hlen
    | some rt =>
      obtain ⟨r, u⟩ := rt
      rw [issueAll_cons hc] at h
      cases h
      rw [List.cons_append, issueAll_cons hc, ih rfl (Nat.succ.inj hlen)]
      rfl

/-- Commands 0 to `n - 1` that are each answered, and each take the states of `P i` to those of `P (i + 1)`. -/
theorem issueAll_range {cmd : Nat → Command} {P : Nat → State → Prop} {n : Nat}
    (hstep : ∀ i < n, ∀ u, P i u → ∃ r v, issue (cmd i) u = some (r, v) ∧ P (i + 1) v) (h0 : P 0 s) :
    ∃ rs t, issueAll ((List.range n).map cmd) s = (rs, t) ∧ rs.length = ((List.range n).map cmd).length ∧ P n t := by
  induction n with
  | zero => exact ⟨[], s, rfl, rfl, h0⟩
  | succ n ih =>
    obtain ⟨rs, t, hrun, hlen, ht⟩ := ih fun i hi => hstep i (Nat.lt_succ_of_lt hi)
    obtain ⟨r, v, hv, hPv⟩ := hstep n (Nat.lt_succ_self n) t ht
    refine ⟨rs ++ [r], v, ?_, ?_, hPv⟩
    · rw [List.range_succ, List.map_append, List.map_singleton, issueAll_append hrun hlen, issueAll_cons hv]
      rfl
    · simp only [List.length_append, hlen, List.length_map, List.length_range, List.length_singleton]

end issueAll

/-- A command as an instruction that responds. -/
theorem issue_encode {i : Instr} {s t : State} {r : Response} (ht : exec i s = .next t) (hr : t.port = .responding r) :
    issue (encode i) s = some (r, { t with port := .idle }) :=
  issue_of_responding ((runLatched_of_decode (decodeInvertsEncode i)).trans ht) hr

section reads
variable (s : State)

/-- The word that a read command of SERIALIZE returns (R134, R165, R255). -/
def readWord : Instr → Word
  | .keyrd i => s.keyWords.get i
  | .ctrrd i => s.ctrWords.get i
  | _ => zext64 s.CUR

/-- The read commands of SERIALIZE. -/
def IsStateRead (i : Instr) : Prop := (∃ j, i = .keyrd j) ∨ (∃ j, i = .ctrrd j) ∨ i = .currd

theorem issue_read {i : Instr} (h : IsStateRead i) :
    issue (encode i) s = some (⟨.ok, readWord s i⟩, { s with port := .idle }) := by
  obtain ⟨j, rfl⟩ | ⟨j, rfl⟩ | rfl := h
  · exact issue_encode (t := s.respond .ok (s.keyWords.get j)) rfl rfl
  · exact issue_encode (t := s.respond .ok (s.ctrWords.get j)) rfl rfl
  · exact issue_encode (t := s.respond .ok (zext64 s.CUR)) rfl rfl

/-- Reads return their words and change nothing but the port. -/
theorem issueAll_reads {is : List Instr} (h : ∀ i ∈ is, IsStateRead i) :
    ∃ p, issueAll (is.map encode) s = (is.map fun i => ⟨.ok, readWord s i⟩, { s with port := p }) := by
  induction is generalizing s with
  | nil => exact ⟨s.port, rfl⟩
  | cons i is ih =>
    obtain ⟨hi, his⟩ := List.forall_mem_cons.mp h
    obtain ⟨p, hp⟩ := ih { s with port := .idle } his
    refine ⟨p, ?_⟩
    rw [List.map_cons, issueAll_cons (issue_read s hi), hp]
    rfl

/-- The instructions of SERIALIZE. -/
def serializeInstrs (c : Config) : List Instr :=
  ((List.range c.ks).map fun i => .keyrd (wordIndex i)) ++ ((List.range c.cs).map fun i => .ctrrd (wordIndex i)) ++
    [.currd]

theorem serializeCommands_eq (c : Config) : serializeCommands c = (serializeInstrs c).map encode := by
  simp [serializeCommands, serializeInstrs, Function.comp_def]

theorem isStateRead_of_mem_serializeInstrs {c : Config} : ∀ i ∈ serializeInstrs c, IsStateRead i := by
  intro i hi
  simp only [serializeInstrs, List.mem_append, List.mem_map, List.mem_singleton] at hi
  obtain (⟨j, -, rfl⟩ | ⟨j, -, rfl⟩) | rfl := hi
  · exact .inl ⟨_, rfl⟩
  · exact .inr (.inl ⟨_, rfl⟩)
  · exact .inr (.inr rfl)

/-- The serialized state: the implemented key words, the implemented counter words, the cursor (R259). -/
def serialized : List Word :=
  ((List.range s.cfg.ks).map fun i => s.keyWords.get (wordIndex i)) ++
    ((List.range s.cfg.cs).map fun i => s.ctrWords.get (wordIndex i)) ++ [zext64 s.CUR]

theorem issueAll_serialize :
    ∃ p rs, issueAll (serializeCommands s.cfg) s = (rs, { s with port := p }) ∧
      rs.map (·.data) = serialized s := by
  obtain ⟨p, hp⟩ := issueAll_reads s (isStateRead_of_mem_serializeInstrs (c := s.cfg))
  refine ⟨p, _, (serializeCommands_eq s.cfg).symm ▸ hp, ?_⟩
  simp [serializeInstrs, serialized, readWord, Function.comp_def]

theorem length_serialized : (serialized s).length = s.cfg.ks + s.cfg.cs + 1 := by
  simp [serialized, Nat.add_assoc]

end reads

section writes

/-- SETKEY of words 0, 1, … (30_encoding.md R106). -/
theorem setkeyCommands_range (g : Nat → Word) (n : Nat) :
    setkeyCommands ((List.range n).map g) = (List.range n).map fun i => encode (.keywr (wordIndex i) (g i)) :=
  List.ext_getElem (by simp [setkeyCommands]) fun i _ _ => by simp [setkeyCommands]

/-- SETCTR of words 0, 1, … (R106). -/
theorem setctrCommands_range (g : Nat → Word) (n : Nat) :
    setctrCommands ((List.range n).map g) = (List.range n).map fun i => encode (.ctrwr (wordIndex i) (g i)) :=
  List.ext_getElem (by simp [setctrCommands]) fun i _ _ => by simp [setctrCommands]

/-- DESERIALIZE of a serialized state: its key words, its counter words, its cursor (R106, R259). -/
theorem deserializeCommands_serialized (s : State) :
    deserializeCommands s.cfg (serialized s) =
      ((List.range s.cfg.ks).map fun i => encode (.keywr (wordIndex i) (s.keyWords.get (wordIndex i)))) ++
        ((List.range s.cfg.cs).map fun i => encode (.ctrwr (wordIndex i) (s.ctrWords.get (wordIndex i)))) ++
          [encode (.curwr (zext64 s.CUR))] := by
  rw [← setkeyCommands_range, ← setctrCommands_range]
  simp [deserializeCommands, serialized, List.take_append, List.drop_append]

theorem wordIndex_val {i : Nat} (h : i < 4) : (wordIndex i).val = i := Nat.mod_eq_of_lt h

/-- A word is among the first `i + 1` when it is word `i` or among the first `i`. -/
theorem get_set_of_lt_succ {q r : Quad} {i : Nat} (hi : i < 4) (h : ∀ j : Fin 4, j.val < i → q.get j = r.get j)
    (j : Fin 4) (hj : j.val < i + 1) : (q.set (wordIndex i) (r.get (wordIndex i))).get j = r.get j := by
  rw [Quad.get_set]
  split
  · next heq => rw [heq]
  · next hne =>
    refine h j ?_
    have hval : j.val ≠ i := fun heq => hne (Fin.ext (heq.trans (wordIndex_val hi).symm))
    omega

/-- A state that meets the invariants and holds the first `i` key words of `s`. -/
def HoldsKeyWords (s : State) (i : Nat) (u : State) : Prop :=
  u.Inv ∧ u.cfg = s.cfg ∧ ∀ j : Fin 4, j.val < i → u.K.get j = s.K.get j

/-- A state that meets the invariants and holds the key and the first `i` counter words of `s`. -/
def HoldsCounterWords (s : State) (i : Nat) (u : State) : Prop :=
  u.Inv ∧ u.cfg = s.cfg ∧ u.K = s.K ∧ ∀ j : Fin 4, j.val < i → u.CTR.get j = s.CTR.get j

variable {s u : State} {i : Nat}

theorem ks_le (c : Config) : c.ks ≤ 4 := KeySize.exists_toNat_eq.mp ⟨c.KS, rfl⟩

theorem cs_le (c : Config) : c.cs ≤ 4 := (CounterSize.exists_toNat_eq.mp ⟨c.CS, rfl⟩).2

/-- KEYWR of the next key word. -/
theorem HoldsKeyWords.issue_keywr (h : HoldsKeyWords s i u) (hi : i < s.cfg.ks) :
    ∃ r v, issue (encode (.keywr (wordIndex i) (s.K.get (wordIndex i)))) u = some (r, v) ∧
      HoldsKeyWords s (i + 1) v := by
  obtain ⟨hu, hcfg, hK⟩ := h
  have hi4 : i < 4 := hi.trans_le (ks_le s.cfg)
  have hidx : (wordIndex i).val < u.cfg.ks := by rwa [wordIndex_val hi4, hcfg]
  exact ⟨_, _, issue_encode (execKeywr_of_lt _ hidx) rfl, (hu.keyChangeTail_set hidx _).port rfl, hcfg,
    get_set_of_lt_succ hi4 hK⟩

/-- CTRWR of the next counter word. -/
theorem HoldsCounterWords.issue_ctrwr (h : HoldsCounterWords s i u) (hi : i < s.cfg.cs) :
    ∃ r v, issue (encode (.ctrwr (wordIndex i) (s.CTR.get (wordIndex i)))) u = some (r, v) ∧
      HoldsCounterWords s (i + 1) v := by
  obtain ⟨hu, hcfg, hK, hCTR⟩ := h
  have hi4 : i < 4 := hi.trans_le (cs_le s.cfg)
  have hidx : (wordIndex i).val < u.cfg.cs := by rwa [wordIndex_val hi4, hcfg]
  exact ⟨_, _, issue_encode (execCtrwr_of_lt _ hidx) rfl, (hu.recomputeBlock_set hidx _).port rfl, hcfg, hK,
    get_set_of_lt_succ hi4 hCTR⟩

/-- The implemented words are the whole file when the others are zero. -/
theorem eq_of_implemented_eq {n : Nat} {p q : Quad} (hp : ∀ j : Fin 4, n ≤ j.val → p.get j = 0)
    (hq : ∀ j : Fin 4, n ≤ j.val → q.get j = 0) (h : ∀ j : Fin 4, j.val < n → p.get j = q.get j) : p = q := by
  refine Quad.ext_get fun j => ?_
  obtain hj | hj := Nat.lt_or_ge j.val n
  · exact h j hj
  · rw [hp j hj, hq j hj]

theorem HoldsKeyWords.K_eq (hs : s.Inv) (h : HoldsKeyWords s s.cfg.ks u) : u.K = s.K := by
  obtain ⟨⟨-, -, -, ⟨hu, -⟩, -⟩, hcfg, hK⟩ := h
  obtain ⟨-, -, -, ⟨hs, -⟩, -⟩ := hs
  exact eq_of_implemented_eq (hcfg ▸ hu) hs hK

theorem HoldsCounterWords.CTR_eq (hs : s.Inv) (h : HoldsCounterWords s s.cfg.cs u) : u.CTR = s.CTR := by
  obtain ⟨⟨-, -, -, ⟨-, hu⟩, -⟩, hcfg, -, hCTR⟩ := h
  obtain ⟨-, -, -, ⟨-, hs⟩, -⟩ := hs
  exact eq_of_implemented_eq (hcfg ▸ hu) hs hCTR

/-- CURWR of the cursor of a state that meets the invariants. -/
theorem issue_curwr (hs : s.Inv) (hcfg : u.cfg = s.cfg) :
    issue (encode (.curwr (zext64 s.CUR))) u = some (⟨.ok, 0⟩, { u with CUR := s.CUR, port := .idle }) := by
  obtain ⟨-, -, hCUR, -⟩ := hs
  have hval : (zext64 s.CUR).toNat = s.CUR.toNat := BitVec.toNat_setWidth_of_le (by decide)
  have hle : (zext64 s.CUR).toNat ≤ u.cfg.S := by rwa [hval, hcfg]
  have hfield : BitVec.ofNat 6 (zext64 s.CUR).toNat = s.CUR := by
    rw [hval, BitVec.ofNat_toNat, BitVec.setWidth_eq]
  rw [issue_encode (i := .curwr _) (execCurwr_of_le hle) rfl, hfield]
  rfl

/-- DESERIALIZE of a serialized state restores its registers on any block of its configuration (R259). -/
theorem deserialize_restores {t : State} (hs : s.Inv) (ht : t.Inv) (hcfg : t.cfg = s.cfg) :
    let back := (issueAll (deserializeCommands s.cfg (serialized s)) t).2
    back.Inv ∧ back.cfg = s.cfg ∧ back.regs = s.regs := by
  obtain ⟨rs, a, ha, hlen, haK⟩ := issueAll_range (P := HoldsKeyWords s)
    (fun i hi u hu => hu.issue_keywr hi) ⟨ht, hcfg, fun j hj => absurd hj (Nat.not_lt_zero _)⟩
  have haK' := haK.K_eq hs
  obtain ⟨haInv, hacfg, -⟩ := haK
  obtain ⟨rs', b, hb, hlen', hbC⟩ := issueAll_range (P := HoldsCounterWords s)
    (fun i hi u hu => hu.issue_ctrwr hi) ⟨haInv, hacfg, haK', fun j hj => absurd hj (Nat.not_lt_zero _)⟩
  have hbCTR := hbC.CTR_eq hs
  obtain ⟨hbInv, hbcfg, hbK, -⟩ := hbC
  have hend : (issueAll (deserializeCommands s.cfg (serialized s)) t).2 = { b with CUR := s.CUR, port := .idle } := by
    rw [deserializeCommands_serialized, hs.keyWords_eq, hs.ctrWords_eq, List.append_assoc, issueAll_append ha hlen,
      issueAll_append hb hlen', issueAll_cons (issue_curwr hs hbcfg)]
    rfl
  obtain ⟨-, -, hCUR, -⟩ := id hs
  have hbackInv : State.Inv { b with CUR := s.CUR, port := .idle } :=
    (hbInv.cursor (show s.CUR.toNat ≤ b.cfg.S from hbcfg ▸ hCUR)).port rfl
  intro back
  rw [show back = { b with CUR := s.CUR, port := .idle } from hend]
  exact ⟨hbackInv, hbcfg, hs.regs_eq hbackInv hbcfg hbK hbCTR rfl⟩

end writes

/-- Settles O49: SERIALIZE reads, and DESERIALIZE writes back what was read. -/
theorem deserializeRestoresTheSerializedState : Obligations.DeserializeRestoresTheSerializedState := by
  intro s t hs ht hcfg
  obtain ⟨p, rs, hrun, hwords⟩ := issueAll_serialize s
  obtain ⟨-, hbackcfg, hbackregs⟩ := deserialize_restores hs ht hcfg
  have hlen : rs.length = s.cfg.ks + s.cfg.cs + 1 := by rw [← length_serialized, ← hwords, List.length_map]
  dsimp only
  rw [hrun, hwords]
  exact ⟨rfl, hlen, engineEq_of_regs_eq hbackcfg hbackregs, hbackregs⟩

end Sys2Proof.Machine
end

section
/-! PROOF. The commands that change the key (40_key_schedule.md R133, R136): KEYWR on each side of KS, and SEEDS when
the source gives KS words, ends before, or stops answering. -/

namespace Sys2Proof.Machine

/-- Settles O16: below KS the key-change tail runs after the write, and at or above KS the command is refused. -/
theorem keywrWritesOneWordAndRunsTheTail : Obligations.KeywrWritesOneWordAndRunsTheTail := by
  intro s i v
  exact ⟨decode_commandWord (m := .KEYWR) rfl i,
    fun h => ⟨_, execKeywr_of_lt v h, rfl, fun j => Quad.get_set s.K i j v, rfl, rfl, rfl,
      State.keyChangeTail_BLK { s with K := s.K.set i v }, rfl, rfl⟩,
    fun h => ⟨execKeywr_of_le v h, rfl⟩⟩

/-- Settles O13: the words are loaded as SEEDI loads its one word. -/
theorem seedsLoadsTheKeyFromTheSource : Obligations.SeedsLoadsTheKeyFromTheSource := by
  intro s ws rest
  refine ⟨decode_of_decodeWord (m := .SEEDS) (idx := 0) (by decide), fun hlen hs => ?_⟩
  exact ⟨_, execSeeds_of_ks_words hlen hs, rfl, Quad.get_ofList ws,
    State.loadKey_KP (s := s.withSeedsLeft rest) hlen.le, rfl, rfl,
    State.loadKey_BLK (s := s.withSeedsLeft rest) hlen.le, rfl, rfl⟩

/-- Settles O14: SEED_EXHAUSTED is the one cause for which SEEDS fails. -/
theorem seedsFailsWhenTheSourceIsExhausted : Obligations.SeedsFailsWhenTheSourceIsExhausted := by
  intro s
  refine ⟨fun ws rest hlen hs => ⟨execSeeds_of_eos hlen hs, rfl⟩, fun t st d ht hp hst => ?_⟩
  have hc : decode (encode .seeds) = some .seeds := decodeInvertsEncode .seeds
  have hcause := failsWith_of_responding ((runLatched_of_decode hc).trans ht) hp hst
  cases st with
  | ok => exact absurd rfl hst
  | seedExhausted =>
    obtain ⟨-, heos⟩ := hcause
    exact ⟨rfl, heos⟩
  | illegalCommand => cases hc.symm.trans hcause
  | illegalIndex =>
    obtain ⟨i, v, hc', -⟩ | ⟨i, v, hc', -⟩ := hcause <;> cases hc.symm.trans hc'
  | illegalOperand =>
    obtain ⟨p, hc', -⟩ := hcause
    cases hc.symm.trans hc'

namespace State

/-- Going on with a request outstanding is to take the answers there are (70_reset_and_hazards.md R347). -/
theorem seedPull_of_request {s : State} {buf : List Word} (h : s.port = .seeding true buf) :
    s.seedPull = seedRun s.env.seeds s := by
  rw [seedPull]
  congr 1
  obtain ⟨buf', hbuf, -⟩ | ⟨buf', hbuf, -⟩ | ⟨hend, -⟩ | ⟨-, -, heq⟩ := s.seedProceed_cases
  · cases h.symm.trans hbuf
  · cases h.symm.trans hbuf
  · cases h.symm.trans hend
  · exact heq

/-- With no answer there, nothing changes. -/
theorem seedPull_of_wait {s : State} {buf : List Word} (h : s.port = .seeding true buf) (hs : s.env.seeds = []) :
    s.seedPull = s := by
  rw [seedPull_of_request h, hs, seedRun_nil, ← hs]

end State

/-- Settles O15: the words that have come stand in the buffer, where the answers that come later are added. -/
theorem seedsWaitsForTheSource : Obligations.SeedsWaitsForTheSource := by
  intro s ws more hlen hs t
  refine ⟨execSeeds_of_lt_words hlen hs, fun hrst => ⟨?_, ?_⟩⟩
  · rw [step_of_seeding (s := t) hrst rfl]
    exact congrArg Host.Outcome.next (State.seedPull_of_wait rfl rfl)
  · let full : State := s.withSeedsLeft (ws.map .word ++ more)
    have hall : execSeeds full = .next (State.seedRun more (full.seedingWith ws).seedProceed) :=
      execSeeds_of_words hlen.le rfl
    rw [State.seedProceed_of_lt (s := full) hlen] at hall
    rw [step_of_seeding (s := { t with env := { t.env with seeds := more } }) hrst rfl, State.seedPull_of_request rfl]
    refine Eq.trans (congrArg Host.Outcome.next ?_) hall.symm
    exact (State.seedRun_withSeedsLeft t more more).trans (State.seedRun_withSeedsLeft t more _).symm

end Sys2Proof.Machine
end

section
/-! PROOF. The reduced key size (10_state.md R32, T-PROP): with the unimplemented key words zero, the key file of a
block with KS = 4 reads the same, and so do the blocks computed from it. -/

namespace Sys2Proof.Machine

/-- The block with all four key words implemented. -/
def State.withFullKey (s : State) : State := { s with cfg := { s.cfg with KS := .k4 } }

section withFullKey
variable {s : State} (h : s.keyWords = s.K)
include h

theorem State.keyWords_withFullKey : s.withFullKey.keyWords = s.keyWords := by
  have hall : s.K.hardwire 4 = s.K := Quad.hardwire_eq_self fun i hi => absurd i.isLt (Nat.not_lt.mpr hi)
  exact hall.trans h.symm

theorem State.recomputeBlock_withFullKey : s.withFullKey.recomputeBlock = s.recomputeBlock.withFullKey :=
  congrArg (fun k => { s.withFullKey with BLK := encrypt s.ctrWords k s.KP s.cfg.rounds })
    (State.keyWords_withFullKey h)

theorem State.afterNext_withFullKey : s.withFullKey.afterNext = s.afterNext.withFullKey := by
  by_cases hlt : s.CUR.toNat < s.cfg.S
  · rw [State.afterNext_of_lt hlt, State.afterNext_of_lt (s := s.withFullKey) hlt]
    rfl
  · have hge := Nat.le_of_not_lt hlt
    rw [State.afterNext_of_exhausted hge, State.afterNext_of_exhausted (s := s.withFullKey) hge]
    exact congrArg (fun t : State => { t with CUR := 1 })
      (State.recomputeBlock_withFullKey (s := { s with CTR := inc s.cfg s.CTR }) h)

theorem State.discardBy_withFullKey (n : Word) : s.withFullKey.discardBy n = (s.discardBy n).withFullKey := by
  by_cases hn : n = 0
  · subst hn
    rfl
  by_cases hq : (discardPlan s.cfg s.CUR n).blocks = 0
  · rw [State.discardBy_of_blocks_eq_zero s hn hq, State.discardBy_of_blocks_eq_zero s.withFullKey hn hq]
    rfl
  · rw [State.discardBy_of_blocks_ne_zero s hn hq, State.discardBy_of_blocks_ne_zero s.withFullKey hn hq]
    exact congrArg (fun t : State => { t with CUR := (discardPlan s.cfg s.CUR n).cursor })
      (State.recomputeBlock_withFullKey (s := { s with CTR := advance s.cfg _ s.CTR }) h)

/-- The commands of T-PROP read the key only to compute a block or to return one of its words. -/
theorem exec_withFullKey {i : Instr} {t : State} (ht : exec i s = .next t)
    (hi : i = .next ∨ (∃ n, i = .discard n) ∨ (∃ j v, i = .ctrwr j v) ∨ (∃ p, i = .curwr p) ∨ (∃ j, i = .keyrd j) ∨
      (∃ j, i = .ctrrd j) ∨ i = .currd ∨ ∃ j, i = .blkrd j) :
    exec i s.withFullKey = .next t.withFullKey := by
  obtain rfl | ⟨n, rfl⟩ | ⟨j, v, rfl⟩ | ⟨p, rfl⟩ | ⟨j, rfl⟩ | ⟨j, rfl⟩ | rfl | ⟨j, rfl⟩ := hi
  · obtain rfl := Host.Outcome.next.inj (s.exec_next.symm.trans ht)
    rw [State.exec_next, State.afterNext_withFullKey h]
    rfl
  · obtain rfl := Host.Outcome.next.inj ht
    exact congrArg (fun u => Host.Outcome.next (State.respond u .ok 0)) (State.discardBy_withFullKey h n)
  · obtain hj | hj := Nat.lt_or_ge j.val s.cfg.cs
    · obtain rfl := Host.Outcome.next.inj ((execCtrwr_of_lt v hj).symm.trans ht)
      refine (execCtrwr_of_lt (s := s.withFullKey) v hj).trans ?_
      exact congrArg (fun u => Host.Outcome.next (State.respond u .ok 0))
        (State.recomputeBlock_withFullKey (s := { s with CTR := s.CTR.set j v, CUR := 0 }) h)
    · obtain rfl := Host.Outcome.next.inj ((execCtrwr_of_le v hj).symm.trans ht)
      exact execCtrwr_of_le (s := s.withFullKey) v hj
  · obtain hp | hp := Nat.lt_or_ge s.cfg.S p.toNat
    · obtain rfl := Host.Outcome.next.inj ((execCurwr_of_lt hp).symm.trans ht)
      exact execCurwr_of_lt (s := s.withFullKey) hp
    · obtain rfl := Host.Outcome.next.inj ((execCurwr_of_le hp).symm.trans ht)
      exact execCurwr_of_le (s := s.withFullKey) hp
  · obtain rfl := Host.Outcome.next.inj ht
    exact congrArg (fun k => Host.Outcome.next (s.withFullKey.respond .ok (Quad.get k j)))
      (State.keyWords_withFullKey h)
  all_goals
    obtain rfl := Host.Outcome.next.inj ht
    rfl

end withFullKey

/-- Settles O57: a command keeps the configuration, so that only KS differs after it. -/
theorem reducedKeySizeActsAsZeroPadding : Obligations.ReducedKeySizeActsAsZeroPadding := by
  intro s i hs hi
  obtain ⟨t, ht, hcfg⟩ := exec_keeps_cfg i s
  refine ⟨t, ht, (exec_withFullKey hs.keyWords_eq ht hi).trans ?_⟩
  rw [State.withFullKey, hcfg]

end Sys2Proof.Machine
end

section
/-! PROOF. The step (00_scope.md R9, 20_memory.md R76): it always answers, runs the command it has latched, leaves a
waiting block alone, takes a reset, and in three of them makes one transaction of an offered command that responds. -/

namespace Sys2Proof.Machine

/-- Settles O7: the port decides what is run, and the decoder which command. -/
theorem stepRunsTheLatchedCommand : Obligations.StepRunsTheLatchedCommand :=
  fun _ _ _ hrst hport hc => (step_of_busy hrst hport).trans (runLatched_of_decode hc)

/-- Settles O47: the step that keeps the configuration is the answer. -/
theorem everyStepAnswersANextState : Obligations.EveryStepAnswersANextState := by
  intro s
  obtain ⟨t, ht, -⟩ := step_keeps_cfg s
  exact ⟨t, ht⟩

namespace State
variable {s : State}

theorem accept_of_nil (h : s.env.cmds = []) : s.accept = s := by rw [accept, h]

theorem accept_of_cons {c : Command} {cs : List Command} (h : s.env.cmds = c :: cs) :
    s.accept = { s with port := .busy c, env := { s.env with cmds := cs } } := by rw [accept, h]

theorem deliver_of_ready (h : s.env.rspReady = true) (r : Response) :
    s.deliver r = { s with port := .idle, env := { s.env with taken := s.env.taken ++ [r] } } := if_pos h

theorem deliver_of_not_ready (h : s.env.rspReady = false) (r : Response) : s.deliver r = s := by
  rw [deliver, h]
  rfl

end State

/-- Settles O51: each of the three waits. -/
theorem waitingStepsChangeNothing : Obligations.WaitingStepsChangeNothing := by
  intro s hrst
  refine ⟨fun hport hcmds => ?_, fun r hport hready => ?_, fun buf hport hseeds => ?_⟩
  · rw [step_of_idle hrst hport, State.accept_of_nil hcmds]
  · rw [step_of_responding hrst hport, State.deliver_of_not_ready hready]
  · rw [step_of_seeding hrst hport, State.seedPull_of_wait hport hseeds]

/-- Settles O44: the reset is taken, and the block then becomes ready. -/
theorem resetStepAbandonsTheCommand : Obligations.ResetStepAbandonsTheCommand :=
  fun s hrst => ⟨s.takeReset, s.takeReset.becomeReady, step_of_rst hrst, rfl, rfl, rfl, rfl, rfl, rfl, rfl⟩

/-- Settles O50: the command is accepted, run as in its transaction, and its response delivered. -/
theorem threeStepsAreOneTransaction : Obligations.ThreeStepsAreOneTransaction := by
  intro s t c cs r hport hrst hready hcmds hissue
  obtain ⟨u, hu, hr, rfl⟩ := issue_eq_some.mp hissue
  have henv := runLatched_env hu
  have haccept : step s = .next { s with port := .busy c, env := { s.env with cmds := cs } } := by
    rw [step_of_idle hrst hport, State.accept_of_cons hcmds]
  have hrun : step { s with port := .busy c, env := { s.env with cmds := cs } } = .next u := by
    rw [step_of_busy (by exact hrst) rfl, ← hu]
    exact runLatched_port_update c { s with env := { s.env with cmds := cs } } (.busy c)
  have hdeliver : step u = .next { u with port := .idle, env := { u.env with taken := s.env.taken ++ [r] } } := by
    have hrst' : u.env.rst = false := by rw [henv]; exact hrst
    have hready' : u.env.rspReady = true := by rw [henv]; exact hready
    have htaken : u.env.taken = s.env.taken := by rw [henv]
    rw [step_of_responding hrst' hr, State.deliver_of_ready hready', htaken]
  simp only [Host.Core.run, Sys2Proof.core, haccept, hrun, hdeliver]

end Sys2Proof.Machine
end

section
/-! PROOF. The pins (30_encoding.md R91 to R93, R108, 70_reset_and_hazards.md R340): what one clock edge does at each
state of the ports. -/

namespace Sys2Proof.Machine

section resetEdge
variable {s : State} {e : Edge}

theorem State.resetEdge_of_finish (h : e.finish = true) : s.resetEdge e = s.resetBlock.becomeReady := if_pos h

theorem State.resetEdge_of_not_finish (h : e.finish = false) : s.resetEdge e = s.resetBlock := by
  rw [resetEdge, h]
  rfl

theorem State.resetEdge_regs : (s.resetEdge e).regs = (State.resetOf s.cfg).regs := by
  unfold resetEdge
  split <;> rfl

theorem State.resetEdge_env : (s.resetEdge e).env = s.env := by
  unfold resetEdge
  split <;> rfl

end resetEdge

/-- Settles O43: the reset edge is the reset event, and the block becomes ready at it or at a later edge. -/
theorem resetEdgeAbandonsTheCommand : Obligations.ResetEdgeAbandonsTheCommand := by
  intro s e f he hf t
  have ht : t = s.resetEdge e := clockEdge_of_rst he
  clear_value t
  subst ht
  refine ⟨State.resetEdge_regs, s.resetEdge_cfg e, State.resetEdge_env, rfl, fun hfin => ?_, fun hfin => ?_⟩
  · rw [State.resetEdge_of_finish hfin]
    exact ⟨rfl, rfl⟩
  · rw [State.resetEdge_of_not_finish hfin, clockEdge_of_starting hf rfl]
    refine ⟨rfl, rfl, fun hw => ?_, fun hw => ?_⟩
    · rw [hw]
      rfl
    · rw [hw]
      exact ⟨rfl, rfl⟩

/-- `cmd_ready` is 1 exactly when the block is idle (R93). -/
theorem cmdReady_iff (s : State) : (pinsOut false s).cmdReady = true ↔ s.port = .idle := by
  rw [pinsOut]
  cases s.port <;> simp

/-- During reset `cmd_ready` is 0 (R340). -/
theorem cmdReady_eq_true {rst : Bool} {s : State} (h : (pinsOut rst s).cmdReady = true) :
    rst = false ∧ s.port = .idle := by
  cases rst with
  | true => cases h
  | false => exact ⟨rfl, (cmdReady_iff s).mp h⟩

/-- An edge of an idle block at which a command is offered (R91). -/
theorem clockEdge_of_offer {s : State} {e : Edge} (hrst : e.pins.rst = false) (hport : s.port = .idle)
    (hvalid : e.pins.cmdValid = true) :
    clockEdge e s = State.commandEdge e ⟨e.pins.cmdWord, e.pins.cmdData⟩
      { s with port := .busy ⟨e.pins.cmdWord, e.pins.cmdData⟩ } := by
  rw [clockEdge_of_idle hrst hport, State.acceptPins, if_pos hvalid]

/-- An edge of a block that is not idle does not read the command pins (R91). -/
theorem clockEdge_cmdPins {s : State} {e : Edge} (hrst : e.pins.rst = false) (hport : s.port ≠ .idle) (v : Bool)
    (w : BitVec 32) (d : Word) :
    clockEdge { e with pins := { e.pins with cmdValid := v, cmdWord := w, cmdData := d } } s = clockEdge e s := by
  cases hp : s.port with
  | starting => exact (clockEdge_of_starting (by exact hrst) hp).trans (clockEdge_of_starting hrst hp).symm
  | idle => exact absurd hp hport
  | busy c => exact (clockEdge_of_busy (by exact hrst) hp).trans (clockEdge_of_busy hrst hp).symm
  | seeding req buf =>
    cases req with
    | true => exact (clockEdge_of_request (by exact hrst) hp).trans (clockEdge_of_request hrst hp).symm
    | false =>
      exact (clockEdge_of_seedWork (by exact hrst) (.inl ⟨buf, hp⟩)).trans
        (clockEdge_of_seedWork hrst (.inl ⟨buf, hp⟩)).symm
  | seedEnded =>
    exact (clockEdge_of_seedWork (by exact hrst) (.inr hp)).trans (clockEdge_of_seedWork hrst (.inr hp)).symm
  | responding r => exact (clockEdge_of_responding (by exact hrst) hp).trans (clockEdge_of_responding hrst hp).symm

/-- Settles O52: at an edge with `cmd_ready` 0 the block is in reset or not idle, and does not read the command pins. -/
theorem commandsAreLatchedOnlyWhenReady : Obligations.CommandsAreLatchedOnlyWhenReady := by
  intro s e
  refine ⟨fun hready hvalid => ?_, fun hready hvalid => ?_, fun hbusy v w d => ?_⟩
  · obtain ⟨hrst, hport⟩ := cmdReady_eq_true hready
    rw [clockEdge_of_offer hrst hport hvalid]
    refine ⟨fun hfin => ?_, fun _ => (clockEdge_of_busy hrst rfl).symm⟩
    rw [State.commandEdge, hfin]
    rfl
  · obtain ⟨hrst, hport⟩ := cmdReady_eq_true hready
    rw [clockEdge_of_idle hrst hport, State.acceptPins, hvalid]
    rfl
  · cases hrst : e.pins.rst with
    | true => rw [clockEdge_of_rst hrst, clockEdge_of_rst (by exact hrst)]; rfl
    | false =>
      rw [hrst] at hbusy
      have hport : s.port ≠ .idle := fun h => by rw [(cmdReady_iff s).mpr h] at hbusy; cases hbusy
      exact clockEdge_cmdPins hrst hport v w d

/-- Settles O53: what the pins show of a response, and the edges at which it stands. -/
theorem responseIsHeldUntilTaken : Obligations.ResponseIsHeldUntilTaken := by
  intro s r e
  refine ⟨cmdReady_iff s, fun hport => ⟨?_, fun hrst hready => ?_, fun hrst hready => ?_⟩⟩
  · rw [pinsOut, hport]
    rfl
  · rw [clockEdge_of_responding hrst hport, hready]
    rfl
  · rw [clockEdge_of_responding hrst hport, if_pos hready]

section seedPort
variable {s : State} {e : Edge}

theorem State.seedWork_of_not_finish (h : e.finish = false) (s : State) : s.seedWork e = s := by
  rw [seedWork, h]
  rfl

theorem State.seedWork_of_finish (h : e.finish = true) (s : State) : s.seedWork e = s.seedProceed := if_pos h

/-- The seed request stands exactly while an answer is waited for (R108). -/
theorem seedReq_iff (s : State) : (pinsOut false s).seedReq = true ↔ ∃ buf, s.port = .seeding true buf := by
  rw [pinsOut]
  cases s.port <;> simp

theorem seedReq_eq_false (h : ∀ buf, s.port ≠ .seeding true buf) : (pinsOut false s).seedReq = false := by
  rw [← Bool.not_eq_true, seedReq_iff]
  rintro ⟨buf, hbuf⟩
  exact h buf hbuf

variable {buf : List Word}

/-- Work that begins with no further word to ask for ends in the response, with no request (R136). -/
theorem seedWork_port_ne_request (hend : s.port = .seedEnded ∨ s.port = .seeding false buf ∧ s.cfg.ks ≤ buf.length) :
    ∀ buf', (s.seedWork e).port ≠ .seeding true buf' := by
  intro buf' hreq
  cases hfin : e.finish with
  | false =>
    rw [State.seedWork_of_not_finish hfin] at hreq
    obtain hend | ⟨hend, -⟩ := hend <;> cases hend.symm.trans hreq
  | true =>
    rw [State.seedWork_of_finish hfin] at hreq
    obtain ⟨b, hb, hlt, -⟩ | ⟨b, -, -, heq⟩ | ⟨-, heq⟩ | ⟨-, -, heq⟩ := s.seedProceed_cases
    · obtain hend | ⟨hend, hle⟩ := hend
      · cases hend.symm.trans hb
      · cases hend.symm.trans hb
        exact Nat.not_lt.mpr hle hlt
    · rw [heq] at hreq
      cases hreq
    · rw [heq] at hreq
      cases hreq
    · rw [heq] at hreq
      obtain hend | ⟨hend, -⟩ := hend <;> cases hend.symm.trans hreq

/-- The edge that answers a seed request ends it (R108). -/
theorem seedEdge_port_ne_request (hack : e.pins.seedAck = true) :
    ∀ buf', (s.seedEdge e buf).port ≠ .seeding true buf' := by
  obtain ⟨hno, -⟩ | ⟨-, -, heq⟩ | ⟨-, -, -, heq⟩ | ⟨-, -, hle, heq⟩ := seedEdge_cases (s := s) (e := e) buf
  · cases hno.symm.trans hack
  · rw [heq]
    exact seedWork_port_ne_request (buf := []) (.inl rfl)
  · rw [heq]
    exact fun _ => nofun
  · rw [heq]
    exact seedWork_port_ne_request (.inr ⟨rfl, by simpa using hle⟩)

/-- The edge that answers EOS (R108, R136). -/
theorem seedEdge_of_eos (hack : e.pins.seedAck = true) (heos : e.pins.seedEos = true) :
    s.seedEdge e buf = State.seedWork e { s with port := .seedEnded } := by
  obtain ⟨hno, -⟩ | ⟨-, -, heq⟩ | ⟨-, hno, -⟩ | ⟨-, hno, -⟩ := seedEdge_cases (s := s) (e := e) buf
  · cases hno.symm.trans hack
  · exact heq
  · cases hno.symm.trans heos
  · cases hno.symm.trans heos

/-- The edge that answers with a word: the word is kept, and the work goes on at once where it was the last (R108). -/
theorem seedEdge_of_word (hack : e.pins.seedAck = true) (heos : e.pins.seedEos = false) :
    s.seedEdge e buf =
      if buf.length + 1 < s.cfg.ks then { s with port := .seeding false (buf ++ [e.pins.seedData]) }
      else State.seedWork e { s with port := .seeding false (buf ++ [e.pins.seedData]) } := by
  obtain ⟨hno, -⟩ | ⟨-, hno, -⟩ | ⟨-, -, hlt, heq⟩ | ⟨-, -, hle, heq⟩ := seedEdge_cases (s := s) (e := e) buf
  · cases hno.symm.trans hack
  · cases hno.symm.trans heos
  · rw [heq, if_pos hlt]
  · rw [heq, if_neg (Nat.not_lt.mpr hle)]

end seedPort

/-- Settles O54: the answering edge, then the work with no request outstanding. -/
theorem seedPortFollowsItsProtocol : Obligations.SeedPortFollowsItsProtocol := by
  intro s buf e f he hf
  refine ⟨fun hport => ⟨(seedReq_iff s).mpr ⟨buf, hport⟩, fun hack => ?_, fun hack => ?_⟩, fun hport hfin => ?_⟩
  · rw [clockEdge_of_request he hport, State.seedEdge, hack]
    rfl
  · rw [clockEdge_of_request he hport]
    refine ⟨seedReq_eq_false (seedEdge_port_ne_request hack), fun heos => ?_, fun heos => ?_⟩
    · rw [seedEdge_of_word hack heos]
      refine ⟨fun hkeep => ?_, fun hfin hle => ?_⟩
      · split
        · rfl
        · next hge => exact State.seedWork_of_not_finish (hkeep.resolve_right hge) _
      · rw [if_neg (Nat.not_lt.mpr hle)]
        exact (clockEdge_of_seedWork he (.inl ⟨_, rfl⟩)).symm
    · rw [seedEdge_of_eos hack heos]
      refine ⟨fun hfin => State.seedWork_of_finish hfin _, fun hfin => ?_⟩
      rw [State.seedWork_of_not_finish hfin, clockEdge_of_seedWork hf (.inr rfl)]
      exact ⟨fun hw => State.seedWork_of_not_finish hw _, fun hw => State.seedWork_of_finish hw _⟩
  · rw [clockEdge_of_seedWork hf (.inl ⟨buf, hport⟩), State.seedWork_of_finish hfin]
    have hstate : s = s.seedingWith buf := by rw [State.seedingWith, ← hport]
    refine ⟨fun hlt => ?_, fun hle => ?_⟩
    · rw [hstate]
      exact State.seedProceed_of_lt hlt
    · rw [hstate, State.seedProceed_of_le hle]
      rfl

end Sys2Proof.Machine
end

section
/-! PROOF. The pins against the transaction (00_scope.md R13, 92_eei_decisions.md D1). `State.complete` is what the
transaction step makes of a command at any point between its acceptance and its response, given the seed answers still
to come. Every edge leaves it as it was, up to the answer the edge takes, so a run of edges to a response ends in it. -/

namespace Sys2Proof.Machine

/-- A command is accepted and its response not yet taken. -/
def Port.inCommand : Port → Bool
  | .starting | .idle => false
  | .busy _ | .seeding _ _ | .seedEnded | .responding _ => true

/-- What the transaction step makes of the command in hand. -/
def State.complete (s : State) : Host.Outcome State Fault Refusal :=
  match s.port with
  | .busy c => runLatched c s
  | _ => .next s.seedPull

namespace State
variable {s : State} {e : Edge}

theorem complete_of_busy {c : Command} (h : s.port = .busy c) : s.complete = runLatched c s := by rw [complete, h]

theorem complete_of_not_busy (h : ∀ c, s.port ≠ .busy c) : s.complete = .next s.seedPull := by
  unfold complete
  split
  · next c hc => exact absurd hc (h c)
  · rfl

/-- With a request outstanding or no SEEDS in progress there is nothing to go on with. -/
theorem seedProceed_eq_self (hbuf : ∀ buf, s.port ≠ .seeding false buf) (hend : s.port ≠ .seedEnded) :
    s.seedProceed = s := by
  obtain ⟨buf, hp, -⟩ | ⟨buf, hp, -⟩ | ⟨hp, -⟩ | ⟨-, -, heq⟩ := s.seedProceed_cases
  · exact absurd hp (hbuf buf)
  · exact absurd hp (hbuf buf)
  · exact absurd hp hend
  · exact heq

theorem seedProceed_seedProceed (s : State) : s.seedProceed.seedProceed = s.seedProceed := by
  obtain ⟨buf, -, -, heq⟩ | ⟨buf, -, -, heq⟩ | ⟨-, heq⟩ | ⟨-, -, heq⟩ := s.seedProceed_cases
  · rw [heq]
    exact seedProceed_eq_self (fun _ => nofun) nofun
  · rw [heq]
    exact seedProceed_eq_self (fun _ => nofun) nofun
  · rw [heq]
    exact seedProceed_eq_self (fun _ => nofun) nofun
  · rw [heq, heq]

theorem seedProceed_seedWork (s : State) (e : Edge) : (s.seedWork e).seedProceed = s.seedProceed := by
  unfold seedWork
  split
  · exact s.seedProceed_seedProceed
  · rfl

theorem seedPull_withSeedsLeft (s : State) (as : List SeedAnswer) :
    (s.withSeedsLeft as).seedPull = seedRun as s.seedProceed := by
  change seedRun as (s.withSeedsLeft as).seedProceed = _
  rw [withSeedsLeft, seedProceed_env_update]
  have henv := s.seedProceed_env
  exact (congrArg (seedRun as) (by rw [withSeedsLeft, henv])).trans (s.seedProceed.seedRun_withSeedsLeft as as)

/-- A command that has responded is complete. -/
theorem complete_of_responding {r : Response} (h : s.port = .responding r) : s.complete = .next s := by
  have hnone : ∀ buf, s.port ≠ .seeding true buf := fun buf hbuf => by cases h.symm.trans hbuf
  rw [complete_of_not_busy (fun c hc => by cases h.symm.trans hc), seedPull,
    seedProceed_eq_self (fun buf hbuf => by cases h.symm.trans hbuf) (fun hend => by cases h.symm.trans hend),
    seedRun_of_no_request hnone]

end State

/-- What the end of a latched command's latency does: SEEDS begins, and every other command responds (R13, R108). -/
theorem finishCommand_cases (c : Command) (s : State) :
    (decode c = some .seeds ∧ s.finishCommand c = (s.seedingWith []).seedProceed) ∨
      ∃ r, (s.finishCommand c).port = .responding r ∧ (s.finishCommand c).env = s.env ∧
        ∀ e : Env, runLatched c { s with env := e } = .next { s.finishCommand c with env := e } := by
  cases hc : decode c with
  | none =>
    have hfinish : s.finishCommand c = s.raise .illegalCommand := by rw [State.finishCommand, hc]
    rw [hfinish]
    exact .inr ⟨_, rfl, rfl, fun e => runLatched_of_decode_none hc⟩
  | some i =>
    by_cases hi : i = .seeds
    · subst hi
      exact .inl ⟨rfl, by rw [State.finishCommand, hc]; rfl⟩
    · obtain ⟨t, ht, -⟩ := exec_keeps_cfg i s
      have hfinish : s.finishCommand c = t := by
        unfold State.finishCommand
        split
        · next h => cases hc.symm.trans h
        · next h => cases hc.symm.trans h; exact absurd rfl hi
        · next j _ h => cases hc.symm.trans h; rw [ht]
      obtain ⟨⟨r, hr⟩, henv, hupdate⟩ := exec_of_ne_seeds hi ht
      rw [hfinish]
      exact .inr ⟨r, hr, henv, fun e => (runLatched_of_decode hc).trans (hupdate e)⟩

section diagram
variable {s : State} {e : Edge}

/-- A SEEDS in progress has its request outstanding or work of its own in hand. -/
theorem request_or_seedWork (hport : (∃ req buf, s.port = .seeding req buf) ∨ s.port = .seedEnded) :
    (∃ buf, s.port = .seeding true buf) ∨ (∃ buf, s.port = .seeding false buf) ∨ s.port = .seedEnded := by
  obtain ⟨req, buf, hbuf⟩ | hend := hport
  · cases req with
    | true => exact .inl ⟨buf, hbuf⟩
    | false => exact .inr (.inl ⟨buf, hbuf⟩)
  · exact .inr (.inr hend)

/-- Without a request no answer is taken. -/
theorem seedTaken_of_no_request (h : ∀ buf, s.port ≠ .seeding true buf) : seedTaken e s = [] := by
  unfold seedTaken
  split
  · next buf hbuf => exact absurd hbuf (h buf)
  · rfl

/-- An edge of a SEEDS takes at most one answer, and what SEEDS makes of the answers is as before. -/
theorem seedRun_clockEdge (hrst : e.pins.rst = false)
    (hport : (∃ req buf, s.port = .seeding req buf) ∨ s.port = .seedEnded) (as : List SeedAnswer) :
    State.seedRun as (clockEdge e s).seedProceed = State.seedRun (seedTaken e s ++ as) s.seedProceed := by
  obtain ⟨buf, hbuf⟩ | hwork := request_or_seedWork hport
  · have hself : s.seedProceed = s :=
      State.seedProceed_eq_self (fun b hb => by cases hbuf.symm.trans hb) (fun hend => by cases hbuf.symm.trans hend)
    have htaken : seedTaken e s = if e.pins.seedAck then [seedPins e.pins] else [] := by
      rw [seedTaken, hbuf, hrst]
      simp
    rw [clockEdge_of_request hrst hbuf, hself, htaken, State.seedEdge]
    cases hack : e.pins.seedAck with
    | false => exact congrArg _ hself
    | true =>
      rw [if_pos rfl, if_pos rfl, List.singleton_append, State.seedRun_cons hbuf]
      dsimp only
      split
      · rw [State.seedProceed_seedWork]
      · rfl
  · have hnone : ∀ buf, s.port ≠ .seeding true buf := fun buf hbuf => by
      obtain ⟨buf', hbuf'⟩ | hend := hwork
      · cases hbuf'.symm.trans hbuf
      · cases hend.symm.trans hbuf
    rw [clockEdge_of_seedWork hrst hwork, seedTaken_of_no_request hnone, State.seedProceed_seedWork, List.nil_append]

theorem not_busy_of_seeds (hport : (∃ req buf, s.port = .seeding req buf) ∨ s.port = .seedEnded) (c : Command) :
    s.port ≠ .busy c := by
  intro hc
  obtain ⟨req, buf, hbuf⟩ | hend := hport
  · cases hbuf.symm.trans hc
  · cases hend.symm.trans hc

/-- A command in progress that is not latched and has not responded is a SEEDS. -/
theorem seeds_of_inCommand (hin : s.port.inCommand = true) (hbusy : ∀ c, s.port ≠ .busy c)
    (hresp : ∀ r, s.port ≠ .responding r) : (∃ req buf, s.port = .seeding req buf) ∨ s.port = .seedEnded := by
  cases hp : s.port with
  | starting | idle => rw [hp] at hin; cases hin
  | busy c => exact absurd hp (hbusy c)
  | seeding req buf => exact .inl ⟨req, buf, rfl⟩
  | seedEnded => exact .inr rfl
  | responding r => exact absurd hp (hresp r)

theorem inCommand_seedProceed (hin : s.port.inCommand = true) : s.seedProceed.port.inCommand = true := by
  obtain ⟨buf, -, -, heq⟩ | ⟨buf, -, -, heq⟩ | ⟨-, heq⟩ | ⟨-, -, heq⟩ := s.seedProceed_cases
  · rw [heq]
    rfl
  · rw [heq]
    rfl
  · rw [heq]
    rfl
  · rw [heq]
    exact hin

theorem inCommand_seedWork (hin : s.port.inCommand = true) : (s.seedWork e).port.inCommand = true := by
  unfold State.seedWork
  split
  · exact inCommand_seedProceed hin
  · exact hin

theorem inCommand_finishCommand (c : Command) : (s.finishCommand c).port.inCommand = true := by
  obtain ⟨-, heq⟩ | ⟨r, hr, -⟩ := finishCommand_cases c s
  · rw [heq]
    exact inCommand_seedProceed rfl
  · rw [hr]
    rfl

/-- Until its response a command stays in progress. -/
theorem inCommand_clockEdge (hrst : e.pins.rst = false) (hin : s.port.inCommand = true)
    (hresp : ∀ r, s.port ≠ .responding r) : (clockEdge e s).port.inCommand = true := by
  cases hp : s.port with
  | starting | idle => rw [hp] at hin; cases hin
  | busy c =>
    rw [clockEdge_of_busy hrst hp, State.commandEdge]
    split
    · exact inCommand_finishCommand c
    · exact hin
  | seeding req buf =>
    cases req with
    | true =>
      rw [clockEdge_of_request hrst hp]
      obtain ⟨-, heq⟩ | ⟨-, -, heq⟩ | ⟨-, -, -, heq⟩ | ⟨-, -, -, heq⟩ := seedEdge_cases (s := s) (e := e) buf
      · rw [heq]
        exact hin
      · rw [heq]
        exact inCommand_seedWork rfl
      · rw [heq]
        rfl
      · rw [heq]
        exact inCommand_seedWork rfl
    | false =>
      rw [clockEdge_of_seedWork hrst (.inl ⟨buf, hp⟩)]
      exact inCommand_seedWork hin
  | seedEnded =>
    rw [clockEdge_of_seedWork hrst (.inr hp)]
    exact inCommand_seedWork hin
  | responding r => exact absurd hp (hresp r)

theorem seedProceed_port_ne_busy (hnot : ∀ c, s.port ≠ .busy c) (c : Command) : s.seedProceed.port ≠ .busy c := by
  obtain ⟨buf, -, -, heq⟩ | ⟨buf, -, -, heq⟩ | ⟨-, heq⟩ | ⟨-, -, heq⟩ := s.seedProceed_cases
  · rw [heq]
    exact nofun
  · rw [heq]
    exact nofun
  · rw [heq]
    exact nofun
  · rw [heq]
    exact hnot c

theorem seedWork_port_ne_busy (hnot : ∀ c, s.port ≠ .busy c) (c : Command) : (s.seedWork e).port ≠ .busy c := by
  unfold State.seedWork
  split
  · exact seedProceed_port_ne_busy hnot c
  · exact hnot c

/-- The edges of a SEEDS do not lead back to a latched command. -/
theorem clockEdge_port_ne_busy (hrst : e.pins.rst = false)
    (hport : (∃ req buf, s.port = .seeding req buf) ∨ s.port = .seedEnded) (c : Command) :
    (clockEdge e s).port ≠ .busy c := by
  have hnot := not_busy_of_seeds hport
  obtain ⟨buf, hbuf⟩ | hwork := request_or_seedWork hport
  · rw [clockEdge_of_request hrst hbuf]
    obtain ⟨-, heq⟩ | ⟨-, -, heq⟩ | ⟨-, -, -, heq⟩ | ⟨-, -, -, heq⟩ := seedEdge_cases (s := s) (e := e) buf
    · rw [heq]
      exact hnot c
    · rw [heq]
      exact seedWork_port_ne_busy (s := { s with port := .seedEnded }) (fun _ => nofun) c
    · rw [heq]
      exact nofun
    · rw [heq]
      exact seedWork_port_ne_busy (s := { s with port := .seeding false _ }) (fun _ => nofun) c
  · rw [clockEdge_of_seedWork hrst hwork]
    exact seedWork_port_ne_busy hnot c

/-- The edge of a latched command leaves what the transaction makes of it. -/
theorem complete_commandEdge {c : Command} (hport : s.port = .busy c) (as : List SeedAnswer) :
    ((s.commandEdge e c).withSeedsLeft as).complete = runLatched c (s.withSeedsLeft as) := by
  unfold State.commandEdge
  split
  case isFalse => exact State.complete_of_busy hport
  case isTrue =>
    obtain ⟨hc, heq⟩ | ⟨r, hr, henv, hrun⟩ := finishCommand_cases c s
    · have hnot : ∀ c', (s.finishCommand c).port ≠ .busy c' := by
        rw [heq]
        exact seedProceed_port_ne_busy fun _ => nofun
      rw [State.complete_of_not_busy (by exact hnot), State.seedPull_withSeedsLeft, heq, State.seedProceed_seedProceed,
        runLatched_of_decode hc]
      exact congrArg Host.Outcome.next (State.seedPull_withSeedsLeft (s.seedingWith []) as).symm
    · rw [State.complete_of_responding (by exact hr)]
      rw [State.withSeedsLeft, henv]
      exact (hrun { s.env with seeds := as }).symm

/-- Every edge leaves what the transaction step makes of the command in hand, up to the seed answer it takes. -/
theorem complete_clockEdge (hrst : e.pins.rst = false) (hin : s.port.inCommand = true)
    (hresp : ∀ r, s.port ≠ .responding r) (as : List SeedAnswer) :
    ((clockEdge e s).withSeedsLeft as).complete = (s.withSeedsLeft (seedTaken e s ++ as)).complete := by
  by_cases hbusy : ∃ c, s.port = .busy c
  · obtain ⟨c, hc⟩ := hbusy
    have hnone : ∀ buf, s.port ≠ .seeding true buf := fun buf hbuf => by cases hc.symm.trans hbuf
    rw [clockEdge_of_busy hrst hc, complete_commandEdge hc, seedTaken_of_no_request hnone, List.nil_append]
    exact (State.complete_of_busy (s := s.withSeedsLeft as) hc).symm
  · have hnot : ∀ c, s.port ≠ .busy c := fun c hc => hbusy ⟨c, hc⟩
    have hseeds := seeds_of_inCommand hin hnot hresp
    rw [State.complete_of_not_busy (by exact clockEdge_port_ne_busy hrst hseeds),
      State.complete_of_not_busy (by exact hnot), State.seedPull_withSeedsLeft, State.seedPull_withSeedsLeft,
      seedRun_clockEdge hrst hseeds]

@[simp] theorem seedWork_env (e : Edge) (s : State) : (s.seedWork e).env = s.env := by
  unfold State.seedWork
  split
  · exact s.seedProceed_env
  · rfl

@[simp] theorem commandEdge_env (e : Edge) (c : Command) (s : State) : (s.commandEdge e c).env = s.env := by
  unfold State.commandEdge
  split
  · obtain ⟨-, heq⟩ | ⟨r, -, henv, -⟩ := finishCommand_cases c s
    · rw [heq, State.seedProceed_env]
      rfl
    · exact henv
  · rfl

/-- The outside is not the block's: no edge changes what it holds. -/
@[simp] theorem clockEdge_env (e : Edge) (s : State) : (clockEdge e s).env = s.env := by
  unfold clockEdge
  split
  · exact State.resetEdge_env
  split
  · split <;> rfl
  · unfold State.acceptPins
    split
    · rw [commandEdge_env]
    · rfl
  · exact commandEdge_env e _ s
  · next buf _ =>
    obtain ⟨-, h⟩ | ⟨-, -, h⟩ | ⟨-, -, -, h⟩ | ⟨-, -, -, h⟩ := seedEdge_cases (s := s) (e := e) buf <;> simp [h]
  · exact seedWork_env e s
  · exact seedWork_env e s
  · split <;> rfl

end diagram

/-- Edges up to a response, from a command whose response is not yet there. -/
theorem runToResponse_cons {s : State} (h : ∀ r, s.port ≠ .responding r) (e : Edge) (es : List Edge) :
    runToResponse (e :: es) s =
      ((runToResponse es (clockEdge e s)).1, seedTaken e s ++ (runToResponse es (clockEdge e s)).2) := by
  rw [runToResponse]
  split
  · next r hr => exact absurd hr (h r)
  · rfl

theorem runToResponse_of_responding {s : State} {r : Response} (h : s.port = .responding r) (es : List Edge) :
    runToResponse es s = (s, []) := by
  cases es with
  | nil => rfl
  | cons e es => rw [runToResponse, h]

/-- A run of edges that leads a command to its response ends in what the transaction step makes of it. -/
theorem complete_runToResponse {es : List Edge} {s t : State} {as : List SeedAnswer} {r : Response}
    (hrst : ∀ e ∈ es, e.pins.rst = false) (hin : s.port.inCommand = true) (hrun : runToResponse es s = (t, as))
    (hr : t.port = .responding r) :
    (s.withSeedsLeft as).complete = .next (t.withSeedsLeft []) ∧ t.env = s.env := by
  induction es generalizing s as with
  | nil =>
    cases hrun
    exact ⟨State.complete_of_responding hr, rfl⟩
  | cons e es ih =>
    by_cases hresp : ∃ r', s.port = .responding r'
    · obtain ⟨r', hr'⟩ := hresp
      rw [runToResponse_of_responding hr'] at hrun
      cases hrun
      exact ⟨State.complete_of_responding hr', rfl⟩
    · have hresp' : ∀ r', s.port ≠ .responding r' := fun r' hr' => hresp ⟨r', hr'⟩
      obtain ⟨he, hes⟩ := List.forall_mem_cons.mp hrst
      rw [runToResponse_cons hresp'] at hrun
      cases hrun
      obtain ⟨hcomplete, henv⟩ := ih hes (inCommand_clockEdge he hin hresp') rfl
      exact ⟨(complete_clockEdge he hin hresp' _).symm.trans hcomplete, henv.trans (clockEdge_env e s)⟩

/-- Settles O55: from a latched command the transaction step is `State.complete`. -/
theorem pinLevelRunsRefineTheTransaction : Obligations.PinLevelRunsRefineTheTransaction := by
  intro es s t c as r hes hrst hrun hr
  obtain ⟨hcomplete, henv⟩ := complete_runToResponse hes rfl hrun hr
  rw [State.complete_of_busy (c := c) rfl] at hcomplete
  rw [step_of_busy (c := c) (by exact hrst) rfl]
  refine hcomplete.trans ?_
  rw [State.withSeedsLeft, henv]

end Sys2Proof.Machine
end

section
/-! PROOF. Fair runs of edges (60_exceptions.md R313, 70_reset_and_hazards.md R347). What a port waits for comes at some
edge, until then nothing changes, and that edge brings the command nearer to its response, as `Port.edgesLeft` measures.
So every command in progress is answered, with the response of its transaction by the diagram of the edges. -/

namespace Sys2Proof.Machine

/-- The edge brings what the port waits for. -/
def Port.awaits (p : Port) (e : Edge) : Bool :=
  match p with
  | .starting | .busy _ | .seeding false _ | .seedEnded => e.finish
  | .idle => e.pins.cmdValid
  | .seeding true _ => e.pins.seedAck
  | .responding _ => e.pins.rspReady

/-- How many of the edges that a command waits for may still be between it and its response, for `ks` key words. -/
def Port.edgesLeft (ks : Nat) : Port → Nat
  | .starting | .idle | .responding _ => 0
  | .seedEnded => 1
  | .seeding false buf => 2 * (ks - buf.length) + 1
  | .seeding true buf => 2 * max (ks - buf.length) 1
  | .busy _ => 2 * ks + 3

section edge
variable {s : State} {e : Edge}

/-- An edge that does not bring what the port waits for changes nothing. -/
theorem clockEdge_of_not_awaits (hrst : e.pins.rst = false) (h : s.port.awaits e = false) : clockEdge e s = s := by
  cases hp : s.port with
  | starting =>
    rw [hp] at h
    rw [clockEdge_of_starting hrst hp, show e.finish = false from h]
    rfl
  | idle =>
    rw [hp] at h
    rw [clockEdge_of_idle hrst hp, State.acceptPins, show e.pins.cmdValid = false from h]
    rfl
  | busy c =>
    rw [hp] at h
    rw [clockEdge_of_busy hrst hp, State.commandEdge, show e.finish = false from h]
    rfl
  | seeding req buf =>
    rw [hp] at h
    cases req with
    | true =>
      rw [clockEdge_of_request hrst hp, State.seedEdge, show e.pins.seedAck = false from h]
      rfl
    | false => rw [clockEdge_of_seedWork hrst (.inl ⟨buf, hp⟩), State.seedWork_of_not_finish h]
  | seedEnded =>
    rw [hp] at h
    rw [clockEdge_of_seedWork hrst (.inr hp), State.seedWork_of_not_finish h]
  | responding r =>
    rw [hp] at h
    rw [clockEdge_of_responding hrst hp, show e.pins.rspReady = false from h]
    rfl

/-- The work of a SEEDS ends in a request or in the response. -/
theorem edgesLeft_seedProceed_lt (hwork : (∃ buf, s.port = .seeding false buf) ∨ s.port = .seedEnded) :
    s.seedProceed.port.edgesLeft s.cfg.ks < s.port.edgesLeft s.cfg.ks := by
  obtain ⟨buf, hbuf, hlt, heq⟩ | ⟨buf, hbuf, -, heq⟩ | ⟨hend, heq⟩ | ⟨hbuf, hend, -⟩ := s.seedProceed_cases
  · rw [heq, hbuf]
    simp only [Port.edgesLeft]
    omega
  · rw [heq, hbuf]
    exact Nat.succ_pos _
  · rw [heq, hend]
    exact Nat.one_pos
  · obtain ⟨buf, hbuf'⟩ | hend' := hwork
    · exact absurd hbuf' (hbuf buf)
    · exact absurd hend' hend

theorem edgesLeft_seedWork_le (hwork : (∃ buf, s.port = .seeding false buf) ∨ s.port = .seedEnded) :
    (s.seedWork e).port.edgesLeft s.cfg.ks ≤ s.port.edgesLeft s.cfg.ks := by
  unfold State.seedWork
  split
  · exact (edgesLeft_seedProceed_lt hwork).le
  · exact Nat.le_refl _

theorem edgesLeft_finishCommand_lt (c : Command) :
    (s.finishCommand c).port.edgesLeft s.cfg.ks < 2 * s.cfg.ks + 3 := by
  obtain ⟨-, heq⟩ | ⟨r, hr, -⟩ := finishCommand_cases c s
  · have hlt := edgesLeft_seedProceed_lt (s := s.seedingWith []) (.inl ⟨[], rfl⟩)
    rw [heq]
    exact hlt.trans_le (Nat.le_add_right _ 2)
  · rw [hr]
    exact Nat.succ_pos _

/-- The answer to a seed request. -/
theorem edgesLeft_seedEdge_lt {buf : List Word} (hack : e.pins.seedAck = true) :
    (s.seedEdge e buf).port.edgesLeft s.cfg.ks < 2 * max (s.cfg.ks - buf.length) 1 := by
  obtain ⟨hno, -⟩ | ⟨-, -, heq⟩ | ⟨-, -, hlt, heq⟩ | ⟨-, -, hle, heq⟩ := seedEdge_cases (s := s) (e := e) buf
  · cases hno.symm.trans hack
  · have hleft := edgesLeft_seedWork_le (s := { s with port := .seedEnded }) (e := e) (.inr rfl)
    rw [heq]
    exact hleft.trans_lt (show 1 < _ by omega)
  · rw [heq]
    simp only [Port.edgesLeft, List.length_append, List.length_singleton]
    omega
  · have hleft := edgesLeft_seedWork_le (s := { s with port := .seeding false (buf ++ [e.pins.seedData]) }) (e := e)
      (.inl ⟨_, rfl⟩)
    have hdone : Port.edgesLeft s.cfg.ks (.seeding false (buf ++ [e.pins.seedData])) = 1 := by
      simp only [Port.edgesLeft, List.length_append, List.length_singleton]
      omega
    rw [heq]
    exact (hleft.trans hdone.le).trans_lt (show 1 < _ by omega)

/-- The edge that a command in progress waits for brings it nearer to its response. -/
theorem edgesLeft_clockEdge_lt (hrst : e.pins.rst = false) (hin : s.port.inCommand = true)
    (hresp : ∀ r, s.port ≠ .responding r) (haw : s.port.awaits e = true) :
    (clockEdge e s).port.edgesLeft s.cfg.ks < s.port.edgesLeft s.cfg.ks := by
  by_cases hbusy : ∃ c, s.port = .busy c
  · obtain ⟨c, hc⟩ := hbusy
    have hfin : e.finish = true := by rwa [hc] at haw
    rw [clockEdge_of_busy hrst hc, State.commandEdge, if_pos hfin, hc]
    exact edgesLeft_finishCommand_lt c
  · have hseeds := seeds_of_inCommand hin (fun c hc => hbusy ⟨c, hc⟩) hresp
    obtain ⟨buf, hbuf⟩ | hwork := request_or_seedWork hseeds
    · rw [hbuf] at haw
      rw [clockEdge_of_request hrst hbuf, hbuf]
      exact edgesLeft_seedEdge_lt haw
    · have hfin : e.finish = true := by
        obtain ⟨buf, hbuf⟩ | hend := hwork
        · rwa [hbuf] at haw
        · rwa [hend] at haw
      rw [clockEdge_of_seedWork hrst hwork, State.seedWork_of_finish hfin]
      exact edgesLeft_seedProceed_lt hwork

end edge

section run
variable {es : Nat → Edge} {s : State} {n : Nat} (hrst : ∀ m, n ≤ m → (es m).pins.rst = false)
include hrst

theorem pinsAt_eq {m : Nat} (hm : n ≤ m) : pinsAt es s m = pinsOut false (edgeRun es s m) := by
  rw [pinsAt, hrst m hm]

/-- `cmd_ready` shows whether the block is idle. -/
theorem pinsAt_cmdReady_iff {m : Nat} (hm : n ≤ m) :
    (pinsAt es s m).cmdReady = true ↔ (edgeRun es s m).port = .idle := by
  rw [pinsAt_eq hrst hm, cmdReady_iff]

/-- In a fair run, what a port that is not idle waits for comes, and until then nothing changes. -/
theorem exists_awaited (hfair : FairEdges es s) (hport : (edgeRun es s n).port ≠ .idle) :
    ∃ m, n ≤ m ∧ (edgeRun es s n).port.awaits (es m) = true ∧ ∀ k, n ≤ k → k ≤ m → edgeRun es s k = edgeRun es s n := by
  obtain ⟨htakes, hanswers, hends⟩ := hfair
  have hcomes : ∃ m, n ≤ m ∧ (edgeRun es s n).port.awaits (es m) = true := by
    cases hp : (edgeRun es s n).port with
    | starting | busy | seedEnded => exact hends n (by rw [hp]; rfl)
    | idle => exact absurd hp hport
    | seeding req buf =>
      cases req with
      | true => exact hanswers n (by rw [pinsAt_eq hrst le_rfl, seedReq_iff]; exact ⟨buf, hp⟩)
      | false => exact hends n (by rw [hp]; rfl)
    | responding r => exact htakes n (by rw [pinsAt_eq hrst le_rfl, pinsOut, hp]; rfl)
  obtain ⟨m, hm, haw, hfirst⟩ := first_from hcomes
  refine ⟨m, hm, haw, fun k hk hkm => edgeRun_hold hk fun j hj hjk => ?_⟩
  exact clockEdge_of_not_awaits (hrst j hj) (Bool.not_eq_true _ ▸ hfirst j hj (by omega))

/-- In a fair run a command in progress comes to its response, in the state its transaction ends in for the answers
taken, and the block is not idle before. -/
theorem exists_response (hfair : FairEdges es s) (hin : (edgeRun es s n).port.inCommand = true) :
    ∃ m r as, n ≤ m ∧ (edgeRun es s m).port = .responding r ∧ (∀ k, n ≤ k → k ≤ m → (edgeRun es s k).port ≠ .idle) ∧
      ((edgeRun es s n).withSeedsLeft as).complete = .next ((edgeRun es s m).withSeedsLeft []) ∧
      (edgeRun es s m).env = (edgeRun es s n).env := by
  have hidle {p : Port} (hp : p.inCommand = true) : p ≠ .idle := by rintro rfl; cases hp
  obtain ⟨left, hleft⟩ : ∃ left, (edgeRun es s n).port.edgesLeft (edgeRun es s n).cfg.ks = left := ⟨_, rfl⟩
  induction left using Nat.strong_induction_on generalizing n with
  | _ left ih =>
    by_cases hresp : ∃ r, (edgeRun es s n).port = .responding r
    · obtain ⟨r, hr⟩ := hresp
      refine ⟨n, r, [], le_rfl, hr, fun k hk hkn => ?_, State.complete_of_responding hr, rfl⟩
      rw [Nat.le_antisymm hkn hk]
      exact hidle hin
    · have hresp' : ∀ r, (edgeRun es s n).port ≠ .responding r := fun r hr => hresp ⟨r, hr⟩
      obtain ⟨j, hj, haw, hhold⟩ := exists_awaited hrst hfair (hidle hin)
      have hnext : edgeRun es s (j + 1) = clockEdge (es j) (edgeRun es s n) := by
        rw [edgeRun_succ, hhold j hj le_rfl]
      have hlt := edgesLeft_clockEdge_lt (hrst j hj) hin hresp' haw
      obtain ⟨m, r, as, hm, hr, hbusy, hcomplete, henv⟩ := ih _ (hleft ▸ hlt) (n := j + 1)
        (fun k hk => hrst k (by omega)) (by rw [hnext]; exact inCommand_clockEdge (hrst j hj) hin hresp')
        (by rw [hnext, clockEdge_cfg])
      refine ⟨m, r, seedTaken (es j) (edgeRun es s n) ++ as, by omega, hr, fun k hk hkm => ?_, ?_, ?_⟩
      · obtain hkj | hkj := Nat.lt_or_ge j k
        · exact hbusy k hkj hkm
        · rw [hhold k hk hkj]
          exact hidle hin
      · rw [← complete_clockEdge (hrst j hj) hin hresp', ← hnext]
        exact hcomplete
      · rw [henv, hnext, clockEdge_env]

/-- … and the response is taken. -/
theorem exists_delivery (hfair : FairEdges es s) (hin : (edgeRun es s n).port.inCommand = true) :
    ∃ m r as, n ≤ m ∧ (es m).pins.rspReady = true ∧ (edgeRun es s m).port = .responding r ∧
      (∀ k, n ≤ k → k ≤ m → (edgeRun es s k).port ≠ .idle) ∧
      ((edgeRun es s n).withSeedsLeft as).complete = .next ((edgeRun es s m).withSeedsLeft []) ∧
      (edgeRun es s m).env = (edgeRun es s n).env := by
  obtain ⟨j, r, as, hj, hr, hbusy, hcomplete, henv⟩ := exists_response hrst hfair hin
  obtain ⟨m, hm, haw, hhold⟩ := exists_awaited (n := j) (fun k hk => hrst k (by omega)) hfair (hbusy j hj le_rfl)
  rw [hr] at haw
  have hmj := hhold m hm le_rfl
  refine ⟨m, r, as, hj.trans hm, haw, by rw [hmj, hr], fun k hk hkm => ?_, by rw [hmj, hcomplete], by rw [hmj, henv]⟩
  obtain hkj | hkj := Nat.lt_or_ge k j
  · exact hbusy k hk hkj.le
  · rw [hhold k hkj hkm]
    exact hbusy j hj le_rfl

/-- The edge that takes a response leaves the block idle. -/
theorem edgeRun_of_delivery {m : Nat} {r : Response} (hm : n ≤ m) (hready : (es m).pins.rspReady = true)
    (hr : (edgeRun es s m).port = .responding r) :
    edgeRun es s (m + 1) = { edgeRun es s m with port := .idle } := by
  rw [edgeRun_succ, clockEdge_of_responding (hrst m hm) hr, if_pos hready]

/-- In a fair run the block becomes idle again from any state of its ports. -/
theorem exists_idle (hfair : FairEdges es s) : ∃ m, n ≤ m ∧ (edgeRun es s m).port = .idle := by
  cases hp : (edgeRun es s n).port with
  | idle => exact ⟨n, le_rfl, hp⟩
  | starting =>
    obtain ⟨m, hm, haw, hhold⟩ := exists_awaited hrst hfair (by rw [hp]; nofun)
    have hfin : (es m).finish = true := by rwa [hp] at haw
    refine ⟨m + 1, by omega, ?_⟩
    rw [edgeRun_succ, hhold m hm le_rfl, clockEdge_of_starting (hrst m hm) hp, if_pos hfin]
    rfl
  | busy | seeding | seedEnded | responding =>
    obtain ⟨m, r, as, hm, hready, hr, -⟩ := exists_delivery hrst hfair (by rw [hp]; rfl)
    exact ⟨m + 1, by omega, by rw [edgeRun_of_delivery hrst hm hready hr]⟩

/-- The command that HOST holds is the same at every edge up to the one that finds the block ready (R313). -/
theorem command_held (hholds : HoldsCommand es s) {m : Nat} (hm : n ≤ m)
    (hbusy : ∀ k, n ≤ k → k < m → (edgeRun es s k).port ≠ .idle)
    (hvalid : ∀ k, n ≤ k → k ≤ m → (es k).pins.cmdValid = true) :
    (es m).pins.cmdWord = (es n).pins.cmdWord ∧ (es m).pins.cmdData = (es n).pins.cmdData := by
  induction m, hm using Nat.le_induction with
  | base => exact ⟨rfl, rfl⟩
  | succ m hm ih =>
    have hready : (pinsAt es s m).cmdReady = false := by
      rw [← Bool.not_eq_true, pinsAt_cmdReady_iff hrst hm]
      exact hbusy m hm (Nat.lt_succ_self m)
    obtain ⟨hword, hdata⟩ := hholds m (hvalid m hm (by omega)) hready (hvalid (m + 1) (by omega) le_rfl)
    obtain ⟨hword', hdata'⟩ := ih (fun k hk hkm => hbusy k hk (by omega)) (fun k hk hkm => hvalid k hk (by omega))
    exact ⟨hword.trans hword', hdata.trans hdata'⟩

end run

/-- Settles O59: the block becomes idle, and an accepted command comes to a delivery that is that of its transaction. -/
theorem fairEdgesAnswerEveryCommand : Obligations.FairEdgesAnswerEveryCommand := by
  intro es s n hfair hrst
  refine ⟨?_, fun hready hvalid => ?_⟩
  · obtain ⟨m, hm, hidle, hbusy⟩ := first_from (exists_idle hrst hfair)
    exact ⟨m, hm, (pinsAt_cmdReady_iff hrst hm).mpr hidle, fun hholds => command_held hrst hholds hm hbusy⟩
  · have hidle := (pinsAt_cmdReady_iff hrst le_rfl).mp hready
    have hrst' : ∀ k, n + 1 ≤ k → (es k).pins.rst = false := fun k hk => hrst k (by omega)
    let c : Command := ⟨(es n).pins.cmdWord, (es n).pins.cmdData⟩
    let u : State := { edgeRun es s n with port := .busy c }
    have hnext : edgeRun es s (n + 1) = u.commandEdge (es n) c := clockEdge_of_offer (hrst n le_rfl) hidle hvalid
    have hin : (edgeRun es s (n + 1)).port.inCommand = true := by
      rw [hnext, ← clockEdge_of_busy (s := u) (hrst n le_rfl) rfl]
      exact inCommand_clockEdge (s := u) (hrst n le_rfl) rfl fun _ => nofun
    have henv' : (edgeRun es s (n + 1)).env = (edgeRun es s n).env := by rw [edgeRun_succ, clockEdge_env]
    obtain ⟨m, r, as, hm, htake, hr, hbusy, hcomplete, henv⟩ := exists_delivery hrst' hfair hin
    rw [hnext, complete_commandEdge (s := u) rfl] at hcomplete
    refine ⟨m, r, _, as, hm, htake, ?_, fun k hk hkm => ?_,
      issue_of_responding ((runLatched_port_update c _ _).symm.trans hcomplete) hr, ?_⟩
    · rw [pinsAt_eq hrst' hm, pinsOut, hr]
      rfl
    · rw [← Bool.not_eq_true, pinsAt_cmdReady_iff hrst' hk]
      exact hbusy k hk hkm
    · rw [edgeRun_of_delivery hrst' hm htake hr, ← henv', ← henv]
      rfl

end Sys2Proof.Machine
end

section
/-! PROOF. Fair runs of steps (60_exceptions.md R313, 70_reset_and_hazards.md R347). From the step that runs the command
on, the block tracks its transaction for the seed answers that have come: answers that come while it waits are as good
as there from the start. Fewer than KS can come before the response, so the command responds, and its response is
delivered. -/

namespace Sys2Proof.Machine

section wait
variable {s w : State} {c : Command} {buf : List Word}

/-- A command either responds or waits for the seed source. -/
theorem runLatched_port (hw : runLatched c s = .next w) :
    (∃ r, w.port = .responding r) ∨ ∃ buf, w.port = .seeding true buf := by
  obtain ⟨u, d, hu⟩ | ⟨st, hfail⟩ | ⟨u, buf, hu, hbuf⟩ := runLatched_cases c s
  · obtain rfl := Host.Outcome.next.inj (hw.symm.trans hu)
    exact .inl ⟨_, rfl⟩
  · obtain ⟨rest, -, hraise⟩ := hfail.runLatched_eq
    obtain rfl := Host.Outcome.next.inj (hw.symm.trans hraise)
    exact .inl ⟨_, rfl⟩
  · obtain rfl := Host.Outcome.next.inj (hw.symm.trans hu)
    exact .inr ⟨buf, hbuf⟩

/-- Only SEEDS waits, when the answers there are words and fewer than KS (40_key_schedule.md R136). -/
theorem runLatched_waits (hw : runLatched c s = .next w) (hbuf : w.port = .seeding true buf) :
    decode c = some .seeds ∧ ∃ ws : List Word, ws.length < s.cfg.ks ∧ s.env.seeds = ws.map .word ∧
      w = { s.withSeedsLeft [] with port := .seeding true ws } := by
  cases hc : decode c with
  | none =>
    obtain rfl := Host.Outcome.next.inj ((runLatched_of_decode_none hc).symm.trans hw)
    cases hbuf
  | some i =>
    rw [runLatched_of_decode hc] at hw
    by_cases hi : i = .seeds
    · subst hi
      refine ⟨rfl, ?_⟩
      obtain ⟨ws, rest, hlen, hs⟩ | ⟨ws, rest, hlen, hs⟩ | ⟨ws, hlen, hs⟩ := seedAnswers_cases s.cfg.ks s.env.seeds
      · obtain rfl := Host.Outcome.next.inj ((execSeeds_of_eos hlen hs).symm.trans hw)
        cases hbuf
      · obtain rfl := Host.Outcome.next.inj ((execSeeds_of_ks_words hlen hs).symm.trans hw)
        cases hbuf
      · exact ⟨ws, hlen, hs, (Host.Outcome.next.inj ((execSeeds_of_lt_words hlen hs).symm.trans hw)).symm⟩
    · obtain ⟨⟨r, hr⟩, -⟩ := exec_of_ne_seeds hi hw
      cases hr.symm.trans hbuf

/-- Answers that come while a command waits are as good as there from the start (R347). -/
theorem runLatched_more {as : List SeedAnswer} (hw : runLatched c (s.withSeedsLeft as) = .next w)
    (hbuf : w.port = .seeding true buf) (more : List SeedAnswer) :
    runLatched c (s.withSeedsLeft (as ++ more)) = .next (State.seedRun more w) := by
  obtain ⟨hc, ws, hlen, hs, rfl⟩ := runLatched_waits hw hbuf
  let full : State := s.withSeedsLeft (as ++ more)
  have hall : execSeeds full = .next (State.seedRun more (full.seedingWith ws).seedProceed) :=
    execSeeds_of_words hlen.le (congrArg (· ++ more) hs)
  rw [State.seedProceed_of_lt (s := full) hlen] at hall
  refine (runLatched_of_decode hc).trans (hall.trans (congrArg Host.Outcome.next ?_))
  let waiting : State := { s with port := .seeding true ws }
  exact (waiting.seedRun_withSeedsLeft more (as ++ more)).trans (waiting.seedRun_withSeedsLeft more []).symm

end wait

/-- `u` is as command `c`, run from `s` with the seed answers `as`, leaves the block, and no response has been taken. -/
def Tracks (s : State) (c : Command) (as : List SeedAnswer) (u : State) : Prop :=
  ∃ w, runLatched c (s.withSeedsLeft as) = .next w ∧ SameBlock w u ∧ u.port = w.port ∧ u.env.taken = s.env.taken

section Tracks
variable {s u v : State} {c : Command} {as : List SeedAnswer} {buf : List Word} {t : Turn}

theorem Tracks.port_eq (hu : Tracks s c as u) (hv : Tracks s c as v) : v.port = u.port := by
  obtain ⟨w, hw, -, hup, -⟩ := hu
  obtain ⟨w', hw', -, hvp, -⟩ := hv
  obtain rfl := Host.Outcome.next.inj (hw.symm.trans hw')
  rw [hvp, hup]

theorem Tracks.responds_or_waits (h : Tracks s c as u) :
    (∃ r, u.port = .responding r) ∨ ∃ buf, u.port = .seeding true buf := by
  obtain ⟨w, hw, -, hp, -⟩ := h
  rw [hp]
  exact runLatched_port hw

/-- A command that waits has taken all the answers there were, fewer than KS. -/
theorem Tracks.length_lt (h : Tracks s c as u) (hbuf : u.port = .seeding true buf) : as.length < s.cfg.ks := by
  obtain ⟨w, hw, -, hp, -⟩ := h
  obtain ⟨-, ws, hlen, hs, -⟩ := runLatched_waits hw (hp.symm.trans hbuf)
  have hs' : as = ws.map .word := hs
  rw [hs', List.length_map]
  exact hlen

/-- A step of a wait takes the answers that have come. -/
theorem Tracks.step (h : Tracks s c as u) (hbuf : u.port = .seeding true buf) (hrst : t.rst = false)
    (hstep : step (u.turn t) = .next v) : Tracks s c (as ++ t.seeds) v := by
  obtain ⟨w, hw, hsame, hp, htaken⟩ := h
  have hwbuf := hp.symm.trans hbuf
  obtain ⟨-, ws, -, -, hweq⟩ := runLatched_waits hw hwbuf
  have hseeds : u.env.seeds = [] := by
    obtain ⟨-, -, hseeds⟩ := hsame
    rw [← hseeds, hweq]
    rfl
  have hturn : u.turn t = { w with env := (u.turn t).env } := by
    obtain ⟨hcfg, hregs, -⟩ := hsame
    have hu := State.eq_update_of_regs_eq (s := w) (t := u.turn t) hcfg hregs
    rwa [show (u.turn t).port = w.port from hp] at hu
  have hpull : v = State.seedRun t.seeds (u.turn t) := by
    have hnow : (u.turn t).env.seeds = t.seeds := by rw [turn_env_seeds, hseeds, List.nil_append]
    rw [step_of_seeding (s := u.turn t) hrst hbuf, State.seedPull_of_request (s := u.turn t) hbuf, hnow] at hstep
    exact (Host.Outcome.next.inj hstep).symm
  rw [hturn, State.seedRun_env_update] at hpull
  refine ⟨_, runLatched_more hw hwbuf t.seeds, ?_, ?_, ?_⟩
  · rw [hpull]
    exact ⟨rfl, rfl, rfl⟩
  · rw [hpull]
  · rw [hpull]
    exact htaken

end Tracks

section run
variable {turns : Nat → Turn} {run : Nat → State} {s : State} {c : Command} {n : Nat} (hrun : IsRun turns run)
  (hfair : FairTurns turns run) (hrst : ∀ m, n ≤ m → (turns m).rst = false)
include hrun hfair hrst

/-- A command that waits goes on waiting until some answer comes, which it then takes. -/
theorem exists_answer {as : List SeedAnswer} {buf : List Word} (h : Tracks s c as (run n))
    (hbuf : (run n).port = .seeding true buf) :
    ∃ m, n ≤ m ∧ (turns m).seeds ≠ [] ∧ Tracks s c (as ++ (turns m).seeds) (run (m + 1)) := by
  obtain ⟨-, hanswers⟩ := hfair
  obtain ⟨m, hm, hseeds, hfirst⟩ := first_from (hanswers n buf hbuf)
  have hwait : ∀ k, n ≤ k → k ≤ m → Tracks s c as (run k) := by
    intro k hk
    induction k, hk using Nat.le_induction with
    | base => exact fun _ => h
    | succ k hk ih =>
      intro hkm
      have hk' := ih (by omega)
      have hnone : (turns k).seeds = [] := not_not.mp (hfirst k hk hkm)
      have hnext := hk'.step ((h.port_eq hk').trans hbuf) (hrst k hk) (hrun k)
      rwa [hnone, List.append_nil] at hnext
  have hm' := hwait m hm le_rfl
  exact ⟨m, hm, hseeds, hm'.step ((h.port_eq hm').trans hbuf) (hrst m hm) (hrun m)⟩

/-- A tracked command comes to its response. -/
theorem exists_tracked_response {as : List SeedAnswer} (h : Tracks s c as (run n)) :
    ∃ m as' r, n ≤ m ∧ Tracks s c as' (run m) ∧ (run m).port = .responding r := by
  obtain ⟨left, hleft⟩ : ∃ left, s.cfg.ks - as.length = left := ⟨_, rfl⟩
  induction left using Nat.strong_induction_on generalizing n as with
  | _ left ih =>
    obtain ⟨r, hr⟩ | ⟨buf, hbuf⟩ := h.responds_or_waits
    · exact ⟨n, as, r, le_rfl, h, hr⟩
    · obtain ⟨m, hm, hseeds, hnext⟩ := exists_answer hrun hfair hrst h hbuf
      have hlen := h.length_lt hbuf
      have hmore := List.length_pos_of_ne_nil hseeds
      have hshorter : s.cfg.ks - (as ++ (turns m).seeds).length < left := by
        rw [List.length_append]
        omega
      obtain ⟨m', as', r, hm', htracks, hr⟩ := ih _ hshorter (fun k hk => hrst k (by omega)) hnext rfl
      exact ⟨m', as', r, by omega, htracks, hr⟩

/-- A response offered is delivered, and the registers are as they were. -/
theorem exists_taken {r : Response} (hr : (run n).port = .responding r) :
    ∃ m, n < m ∧ (run m).port = .idle ∧ (run m).regs = (run n).regs ∧ (run m).cfg = (run n).cfg ∧
      (run m).env.taken = (run n).env.taken ++ [r] := by
  obtain ⟨htakes, -⟩ := hfair
  obtain ⟨m, hm, hready, hfirst⟩ := first_from (htakes n r hr)
  have hhold : ∀ k, n ≤ k → k ≤ m → (run k).port = .responding r ∧ (run k).regs = (run n).regs ∧
      (run k).cfg = (run n).cfg ∧ (run k).env.taken = (run n).env.taken := by
    intro k hk
    induction k, hk using Nat.le_induction with
    | base => exact fun _ => ⟨hr, rfl, rfl, rfl⟩
    | succ k hk ih =>
      intro hkm
      obtain ⟨hp, hregs, hcfg, htaken⟩ := ih (by omega)
      have hnot : (turns k).rspReady = false := Bool.not_eq_true _ ▸ hfirst k hk hkm
      have hstep := hrun k
      rw [step_of_responding (s := (run k).turn (turns k)) (hrst k hk) hp,
        State.deliver_of_not_ready (s := (run k).turn (turns k)) hnot] at hstep
      rw [← Host.Outcome.next.inj hstep]
      exact ⟨hp, hregs, hcfg, htaken⟩
  obtain ⟨hp, hregs, hcfg, htaken⟩ := hhold m hm le_rfl
  have hstep := hrun m
  rw [step_of_responding (s := (run m).turn (turns m)) (hrst m hm) hp,
    State.deliver_of_ready (s := (run m).turn (turns m)) hready] at hstep
  refine ⟨m + 1, by omega, ?_⟩
  rw [← Host.Outcome.next.inj hstep]
  exact ⟨rfl, hregs, hcfg, congrArg (· ++ [r]) htaken⟩

end run

/-- The two steps after a command is offered to the idle block: it is accepted and run. -/
theorem tracks_of_offer {turns : Nat → Turn} {run : Nat → State} {n : Nat} {c : Command} {cs : List Command}
    (hrun : IsRun turns run) (hrst : ∀ m, n ≤ m → (turns m).rst = false) (hidle : (run n).port = .idle)
    (hcmds : (run n).env.cmds ++ (turns n).cmds = c :: cs) : ∃ as, Tracks (run n) c as (run (n + 2)) := by
  let offered : State := (run n).turn (turns n)
  let accepted : State := { offered with port := .busy c, env := { offered.env with cmds := cs } }
  let as : List SeedAnswer := (run n).env.seeds ++ (turns n).seeds ++ (turns (n + 1)).seeds
  have haccept : run (n + 1) = accepted := by
    have hstep := hrun n
    rw [step_of_idle (s := offered) (hrst n le_rfl) hidle, State.accept_of_cons (s := offered) hcmds] at hstep
    exact (Host.Outcome.next.inj hstep).symm
  have hexec : runLatched c (accepted.turn (turns (n + 1))) = .next (run (n + 2)) := by
    rw [← step_of_busy (s := accepted.turn _) (c := c) (hrst (n + 1) (by omega)) rfl, ← haccept]
    exact hrun (n + 1)
  obtain ⟨w, hw, -⟩ := runLatched_keeps_cfg c ((run n).withSeedsLeft as)
  have hsame : SameBlock ((run n).withSeedsLeft as) (accepted.turn (turns (n + 1))) := ⟨rfl, rfl, rfl⟩
  have hresult := Host.Outcome.next.inj (hexec.symm.trans (hsame.runLatched_eq hw))
  refine ⟨_, w, hw, ?_, ?_, ?_⟩
  · rw [hresult]
    exact ⟨rfl, rfl, rfl⟩
  · rw [hresult]
  · rw [hresult]
    rfl

/-- Settles O60: the command is tracked until its response is taken. -/
theorem fairTurnsAnswerEveryCommand : Obligations.FairTurnsAnswerEveryCommand := by
  intro turns run n c cs hrun hfair hrst hidle hcmds
  obtain ⟨as, htracks⟩ := tracks_of_offer hrun hrst hidle hcmds
  obtain ⟨m, as', r, hm, ⟨w, hw, ⟨hcfg, hregs, -⟩, hport, htaken⟩, hr⟩ :=
    exists_tracked_response hrun hfair (fun k hk => hrst k (by omega)) htracks
  obtain ⟨m', hm', hidle', hregs', hcfg', htaken'⟩ := exists_taken hrun hfair (fun k hk => hrst k (by omega)) hr
  exact ⟨m', r, _, as', by omega, issue_of_responding hw (hport.symm.trans hr), hidle', hregs'.trans hregs.symm,
    hcfg'.trans hcfg.symm, by rw [htaken', htaken]⟩

end Sys2Proof.Machine
end
